-- ==== Sys2Proof/Word.lean ====
section
/-! DEFINITION. The word of the block and pairs of words.

A word is an unsigned 64-bit value, bit 0 the least significant (00_scope.md R9, R10).  The operators of R11 are
BitVec's own: `+` and `*` wrap modulo 2^64, `^^^`, `&&&`, `|||`, `~~~` are bitwise, `<<<` and `>>>` shift zeros in. -/

namespace Sys2Proof

/-- A 64-bit word: register, operand word, result word, command word (00_scope.md R7 `W`, R10). -/
abbrev Word := BitVec 64

/-- An 8-bit field: OPC of a command word (30_encoding.md R61) and FCODE (10_state.md R28). -/
abbrev Byte := BitVec 8

/-- The two words of a generator state, S0 then S1 (10_state.md R20, R21; word order 20_memory.md R42). -/
abbrev Pair := Word × Word

end Sys2Proof
end

