-- ==== Sys2Proof/Syntax.lean ====
section
/-! DEFINITION. The commands of the block (30_encoding.md R64), their opcodes, and the lines of the assembler
(R69, R70). -/

namespace Sys2Proof

/-- The opcodes of the opcode map (30_encoding.md R64). -/
inductive Opcode where
  | seed
  | next
  | jump
  | rdstate
  | ldstate
  | rdstatus
deriving DecidableEq, Repr

/-- A command with its operand words (30_encoding.md R62, R64): one constructor per row of spec/opcode_table.json. -/
inductive Instr where
  /-- SEED: `operand[0]` is the 64-bit seed (40_state_mixer.md R85). -/
  | seed (seed : Word)
  /-- NEXT: step the generator and return one output (41_step.md R102). -/
  | next
  /-- JUMP: advance the generator by 2^64 steps (42_jump.md R123); no control transfer (00_scope.md R14). -/
  | jump
  /-- RDSTATE: read the generator state (43_state_access.md R140). -/
  | rdstate
  /-- LDSTATE: `operand[0]` is the new S0, `operand[1]` the new S1 (43_state_access.md R141). -/
  | ldstate (s0 s1 : Word)
  /-- RDSTATUS: read the STATUS word (43_state_access.md R142). -/
  | rdstatus
deriving DecidableEq, Repr

/-- The opcode of a command (30_encoding.md R64). -/
def Instr.opcode : Instr → Opcode
  | .seed _ => .seed
  | .next => .next
  | .jump => .jump
  | .rdstate => .rdstate
  | .ldstate _ _ => .ldstate
  | .rdstatus => .rdstatus

/-- One line of an assembler text (30_encoding.md R69, R70), its numbers as written, not yet known to fit a word. -/
inductive AsmLine where
  | seed (n : Nat)
  | next
  | jump
  | rdstate
  | ldstate (s0 s1 : Nat)
  | rdstatus
  /-- `.word <n>`: the raw word. -/
  | word (n : Nat)
  /-- `SKIP <k>`: `<k>` copies of NEXT. -/
  | skip (k : Nat)
  /-- `JUMPN <k>`: `<k>` copies of JUMP. -/
  | jumpn (k : Nat)
  /-- `FORK`: RDSTATE then JUMP. -/
  | fork
  /-- A line with nothing on it but space and a comment. -/
  | blank
deriving DecidableEq, Repr

end Sys2Proof
end

