-- ==== Sys2Proof/WellFormed.lean ====
section
/-! DEFINITION. Which terms are well formed.

Every `Instr` is: each operand word is "a full unsigned 64-bit value, used as it stands" (30_encoding.md R62), so the
types leave no ill-formed command, and there is no check to make of one.  What can be ill formed is the text of a
command, as words of a transaction (R61, R64, R65) or as a line of the assembler (R69). -/

namespace Sys2Proof

/-- No value of an operand is excluded (30_encoding.md R62). -/
def Instr.wellFormed : Instr → Bool
  | .seed _ => true
  | .next => true
  | .jump => true
  | .rdstate => true
  | .ldstate _ _ => true
  | .rdstatus => true

/-- "The legal command words are exactly 0x0000000000000001 to 0x0000000000000006" (30_encoding.md R64). -/
def legalCommandWord (w : Word) : Bool :=
  decide (1 ≤ w.toNat ∧ w.toNat ≤ 6)

/-- How many operand words follow a legal command word (30_encoding.md R65), by its number. -/
def operandCountOfWord (w : Word) : Nat :=
  if w.toNat = 1 then 1 else if w.toNat = 5 then 2 else 0

/-- Words are one well-formed transaction: a legal command word and exactly its operand words (30_encoding.md R60,
R65). -/
def wellFormedTransaction : List Word → Bool
  | [] => false
  | w :: ops => legalCommandWord w && decide (ops.length = operandCountOfWord w)

/-- A number of an assembler line "must lie in [0, 2^64 − 1]" (30_encoding.md R69). -/
def numberInRange (n : Nat) : Bool :=
  decide (n < 2 ^ 64)

/-- Every number of the line is in range (30_encoding.md R69); the counts of SKIP and JUMPN are numbers too. -/
def AsmLine.wellFormed : AsmLine → Bool
  | .seed n => numberInRange n
  | .ldstate a b => numberInRange a && numberInRange b
  | .word n => numberInRange n
  | .skip k => numberInRange k
  | .jumpn k => numberInRange k
  | .next => true
  | .jump => true
  | .rdstate => true
  | .rdstatus => true
  | .fork => true
  | .blank => true

end Sys2Proof
end

