-- ==== Sys2Proof/Decode.lean ====
section
/-! DEFINITION. Decoding a stream of command-channel words (30_encoding.md R61 to R68), and the encoder. -/

namespace Sys2Proof

/-! ## The fields of a command word (R61) -/

/-- `OPC`, bits 7:0 (R61). -/
def opcField (w : Word) : Byte :=
  w.extractLsb' 0 8

/-- `RSV`, bits 63:8, reserved, must be zero (R61). -/
def rsvField (w : Word) : BitVec 56 :=
  w.extractLsb' 8 56

/-! ## The opcode map (R64) -/

/-- The value of OPC for each opcode (R64). -/
def Opcode.value : Opcode → Byte
  | .seed => 0x01
  | .next => 0x02
  | .jump => 0x03
  | .rdstate => 0x04
  | .ldstate => 0x05
  | .rdstatus => 0x06

/-- The opcode a value of OPC names; every value not in the map names none (R64, R66). -/
def opcodeOfValue (b : Byte) : Option Opcode :=
  if b = 0x01 then some .seed
  else if b = 0x02 then some .next
  else if b = 0x03 then some .jump
  else if b = 0x04 then some .rdstate
  else if b = 0x05 then some .ldstate
  else if b = 0x06 then some .rdstatus
  else none

/-- The opcode of a command word; `none` exactly when the word is illegal: `w[63:8] ≠ 0`, or an OPC outside the map
(R66). -/
def opcodeOfWord (w : Word) : Option Opcode :=
  if rsvField w ≠ 0 then none else opcodeOfValue (opcField w)

/-- `NOPS`: how many operand words follow the command word (R65). -/
def Opcode.nops : Opcode → Nat
  | .seed => 1
  | .next => 0
  | .jump => 0
  | .rdstate => 0
  | .ldstate => 2
  | .rdstatus => 0

/-- `operand[i]`, the i-th of the words after the command word (R62); the decoder asks only for words it has. -/
def operandWord (ops : List Word) (i : Nat) : Word :=
  ops.getD i 0

/-- The command an opcode makes of its operand words (R62: SEED's seed is `operand[0]`, LDSTATE's new S0 is
`operand[0]` and its new S1 is `operand[1]`). -/
def Opcode.command (op : Opcode) (ops : List Word) : Instr :=
  match op with
  | .seed => .seed (operandWord ops 0)
  | .next => .next
  | .jump => .jump
  | .rdstate => .rdstate
  | .ldstate => .ldstate (operandWord ops 0) (operandWord ops 1)
  | .rdstatus => .rdstatus

/-! ## Decoding (R68) -/

/-- What stands at the head of a word stream (R68), with the words that follow it. -/
inductive Decoded where
  /-- A complete legal command. -/
  | command (i : Instr) (rest : List Word)
  /-- An illegal command word, a complete command of one word (R66). -/
  | illegal (w : Word) (rest : List Word)
  /-- A command that lacks words; the block holds (R60). -/
  | incomplete
deriving DecidableEq, Repr

/-- `decode` of R68, at the head of the stream; total on any words. -/
def decode (ws : List Word) : Decoded :=
  match ws with
  | [] => .incomplete
  | w :: rest =>
    match opcodeOfWord w with
    | none => .illegal w rest
    | some op =>
      if rest.length < op.nops then .incomplete
      else .command (op.command (rest.take op.nops)) (rest.drop op.nops)

/-! ## Encoding -/

/-- The command word of an opcode: OPC in bits 7:0, zero in bits 63:8 (R61). -/
def Opcode.commandWord (op : Opcode) : Word :=
  (0 : BitVec 56) ++ op.value

/-- The operand words of a command, in the order they are sent (R62; 20_memory.md R42). -/
def Instr.operandWords : Instr → List Word
  | .seed x => [x]
  | .next => []
  | .jump => []
  | .rdstate => []
  | .ldstate a b => [a, b]
  | .rdstatus => []

/-- The words of a command: its command word, then its operand words (R60). -/
def encode (i : Instr) : List Word :=
  i.opcode.commandWord :: i.operandWords

/-! ## Numbered as spec/opcode_table.json numbers bits -/

/-- The words of an instruction whose bits are `w`, bit 0 the least significant bit of the first word: the low
`nbits` bits, zero above them, as the longest command's three words. -/
def tableWords (nbits w : Nat) : List Word :=
  let v := w % 2 ^ nbits
  [BitVec.ofNat 64 v, BitVec.ofNat 64 (v / 2 ^ 64), BitVec.ofNat 64 (v / 2 ^ 128)]

/-- The instruction the decoder reads from those words. -/
def decodeTableWord (nbits w : Nat) : Option Instr :=
  match decode (tableWords nbits w) with
  | .command i _ => some i
  | .illegal _ _ => none
  | .incomplete => none

end Sys2Proof
end

