-- ==== Sys2Proof/Config.lean ====
section
/-! DEFINITION. What an implementation fixes, and the values the spec leaves free.

The fixed parameters of 00_scope.md R7 and the machine's own value of `Config` stand in Machine/Params.lean. -/

namespace Sys2Proof

/-- The configuration of R8 that a rule reads: the right-shift amounts of the three xor-shifts of SplitMix
(40_state_mixer.md R81, "a named configuration field"). -/
structure Config where
  smSh1 : Nat
  smSh2 : Nat
  smSh3 : Nat
deriving DecidableEq, Repr

/-- What S0 holds after the n-th reset: unspecified, any 64-bit value (10_state.md R35).  No body: a free value. -/
opaque Config.unspecifiedS0 : Nat → Word

/-- What S1 holds after the n-th reset: unspecified, any 64-bit value (10_state.md R35).  No body: a free value. -/
opaque Config.unspecifiedS1 : Nat → Word

/-- The latency of SEED (R8 `LAT_SEED`): finite, otherwise open; named, and read by no rule (70_reset_and_hazards.md
R199). -/
opaque Config.latSeed : Nat

/-- The latency of NEXT (R8 `LAT_NEXT`); read by no rule (R199). -/
opaque Config.latNext : Nat

/-- The latency of JUMP (R8 `LAT_JUMP`); read by no rule (R199). -/
opaque Config.latJump : Nat

/-- The latency of the state access commands (R8 `LAT_ACCESS`); read by no rule (R199). -/
opaque Config.latAccess : Nat

/-- The number of independent core instances in a system (R8 `N_INSTANCES`); the block's rules do not read it
(60_exceptions.md R175), `Machine.System` does. -/
opaque Config.nInstances : Nat

/-- The signal-level handshake of the command and response channels (R8 `PORT_PROTOCOL`): which one, as a number, since
the spec names none; the model is at transaction level (92_eei_decisions.md D1), and no rule reads it. -/
opaque Config.portProtocol : Nat

/-- The byte orders a host can serialise a word in (20_memory.md R41). -/
inductive ByteOrder where
  | littleEndian
  | bigEndian
deriving DecidableEq, Repr, Inhabited

/-- The byte order of the host's serialisation of the two state words (R8 `HOST_BYTE_ORDER`; 20_memory.md R41): open,
outside the block, read by `Machine.hostCheckpoint` only. -/
opaque Config.hostByteOrder : ByteOrder

end Sys2Proof
end

