-- ==== Sys2Proof/Machine/State.lean ====
section
/-! DEFINITION. The state of the block, of its two channels and of the host's coming actions; reset.

There is no memory, program counter, mode or interrupt state to hold (10_state.md R25, R29, R33; 60_exceptions.md
R170, R171). -/

namespace Sys2Proof.Machine

/-- The reasons a command faults (60_exceptions.md R161).  These are faults of the block, after which it goes on
(R169): they are recorded in State and answered ERR, and stop nothing. -/
inductive FaultCode where
  /-- The command word is illegal (R162). -/
  | illegalCommand
  /-- NEXT, JUMP or RDSTATE while VALID = 0 (R163). -/
  | unseeded
  /-- LDSTATE of two zero words (R164). -/
  | zeroState
deriving DecidableEq, Repr

/-- A response (30_encoding.md R63): OK with its result words, or ERR with none. -/
inductive Response where
  | ok (words : List Word)
  | err
deriving DecidableEq, Repr

/-- What the outside world can do to the block (20_memory.md R49; 70_reset_and_hazards.md R190, R196). -/
inductive HostEvent where
  /-- Send one word on the command channel (30_encoding.md R60). -/
  | send (w : Word)
  /-- Accept the outstanding response (20_memory.md R47). -/
  | accept
  /-- Assert the reset input (R190). -/
  | reset
  /-- Lose power and power up again, which is a reset (60_exceptions.md R176). -/
  | powerCycle
deriving DecidableEq, Repr

/-- The machine. -/
structure State where
  /-- S0, the first word of the generator state (10_state.md R20). -/
  s0 : Word
  /-- S1, the second word of the generator state (10_state.md R21). -/
  s1 : Word
  /-- VALID: S0 and S1 hold a state written by SEED or LDSTATE (10_state.md R26). -/
  valid : Bool
  /-- FAULT: a command has faulted since reset; sticky (10_state.md R27). -/
  fault : Bool
  /-- FCODE: the code of the first command that faulted since reset, or 0 (10_state.md R28). -/
  fcode : Byte
  /-- The words of the command in progress, oldest first (30_encoding.md R60). -/
  received : List Word
  /-- The response outstanding on the response channel (20_memory.md R47). -/
  pending : Option Response
  /-- The responses the host has accepted, oldest first (70_reset_and_hazards.md R198). -/
  delivered : List Response
  /-- The host's coming actions, oldest first.  Arbitrary: a claim about every state is a claim about every
  interleaving of issuers (20_memory.md R50). -/
  host : List HostEvent
  /-- The model's own: how many free draws of S0 and S1 have been taken. -/
  drawIndex : Nat
deriving DecidableEq, Repr

/-- The reasons the machine could stop with a fault.  It has none: every command completes (70_reset_and_hazards.md
R197), a faulting command is answered and the block goes on (60_exceptions.md R169), and a block that lacks words or
whose response is not taken holds (30_encoding.md R60).  Nothing raises it; safe. -/
inductive Fault where
deriving DecidableEq, Repr

/-- The reasons the model could give an instruction no meaning. -/
inductive Refusal where
  /-- An instruction with no meaning in the model, by its mnemonic.  Raised by an arm of exec only, and no arm raises
  it: every instruction has its meaning.  Safe. -/
  | notModelled (mnemonic : String)
deriving DecidableEq, Repr

/-- The machine right after reset (10_state.md R35, R190 to R192): VALID, FAULT and FCODE are 0, S0 and S1 are
unspecified, no word is held, no response is outstanding, and the host has done nothing yet. -/
def State.reset : State where
  s0 := Config.unspecifiedS0 0
  s1 := Config.unspecifiedS1 0
  valid := false
  fault := false
  fcode := 0
  received := []
  pending := none
  delivered := []
  host := []
  drawIndex := 1

end Sys2Proof.Machine
end

