-- ==== Sys2Proof/Machine/Channel.lean ====
section
/-! DEFINITION. The host's side of the two channels, and the reset event. -/

namespace Sys2Proof.Machine

/-- Accept the outstanding response, if there is one (20_memory.md R47; 30_encoding.md R63).  With none outstanding
there is nothing to accept (DESIGN CHOICE, log entry 7). -/
def State.deliver (s : State) : State :=
  { s with
    pending := none
    delivered := s.delivered ++ s.pending.toList }

/-- Take one word of the command in progress from the command channel (30_encoding.md R60). -/
def State.receive (s : State) (w : Word) : State :=
  { s with received := s.received ++ [w] }

/-- The reset event (70_reset_and_hazards.md R190, R191): VALID, FAULT and FCODE are 0, S0 and S1 are drawn anew, the
words received are discarded and the command in progress delivers no response.  What the host has accepted, and what
it will do next, are the outside world's and stay. -/
def State.assertReset (s : State) : State :=
  { s with
    s0 := Config.unspecifiedS0 s.drawIndex
    s1 := Config.unspecifiedS1 s.drawIndex
    valid := false
    fault := false
    fcode := 0
    received := []
    pending := none
    drawIndex := s.drawIndex + 1 }

/-- The event is a reset: the reset input, or a power-up (R190; 60_exceptions.md R176). -/
def HostEvent.isReset : HostEvent → Bool
  | .send _ => false
  | .accept => false
  | .reset => true
  | .powerCycle => true

/-- A reset is the outside world's next action. -/
def State.resetAsserted (s : State) : Bool :=
  match s.host with
  | [] => false
  | e :: _ => e.isReset

/-- The host's next action is done, as the block sees it. -/
def State.hostDone (s : State) : State :=
  { s with host := s.host.tail }

/-- The host's turn: its next action takes place if it can.  A word is not taken while a response is outstanding
(20_memory.md R47: "the block accepts no new command before it has delivered the response to the previous one"), and
with no action to come nothing happens: the block holds (30_encoding.md R60; 70_reset_and_hazards.md R197). -/
def State.hostTurn (s : State) : State :=
  match s.host with
  | [] => s
  | .send w :: _ => if s.pending.isSome then s else s.hostDone.receive w
  | .accept :: _ => s.hostDone.deliver
  | .reset :: _ => s.hostDone.assertReset
  | .powerCycle :: _ => s.hostDone.assertReset

end Sys2Proof.Machine
end

