-- ==== Sys2Proof/Machine/Flags.lean ====
section
/-! DEFINITION. The status fields: the fault codes (60_exceptions.md R161), the STATUS word (10_state.md R29) and the
fault record (10_state.md R27, R28).  There are no arithmetic flags (R30). -/

namespace Sys2Proof.Machine

/-- The value of a fault code (60_exceptions.md R161). -/
def FaultCode.code : FaultCode → Byte
  | .illegalCommand => 1
  | .unseeded => 2
  | .zeroState => 3

/-- A one-bit status field, widened to a word: `zext_64` (00_scope.md R10). -/
def flagWord (b : Bool) : Word :=
  (BitVec.ofBool b).setWidth 64

/-- `STATUS = zext_64(FCODE) << 8 | zext_64(FAULT) << 1 | zext_64(VALID)` (10_state.md R29). -/
def statusWord (s : State) : Word :=
  (s.fcode.setWidth 64 <<< 8) ||| (flagWord s.fault <<< 1) ||| flagWord s.valid

/-- VALID <- 1 (10_state.md R26). -/
def State.setValid (s : State) : State :=
  { s with valid := true }

/-- Record a fault: the first since reset sets FAULT and FCODE, a later one changes neither (10_state.md R27, R28;
60_exceptions.md R165, R169). -/
def State.recordFault (s : State) (c : FaultCode) : State :=
  { s with
    fault := true
    fcode := if s.fault then s.fcode else c.code }

/-- `RSTAT` of a response: 0 = OK, 1 = ERR (30_encoding.md R63). -/
def Response.rstat : Response → BitVec 1
  | .ok _ => 0
  | .err => 1

end Sys2Proof.Machine
end

