-- ==== Sys2Proof/Machine/Params.lean ====
section
/-! DEFINITION. The fixed parameters of the hardware (00_scope.md R7) and the machine's configuration (R8).  They are
not state: fixed, read and written by no command, identical in every instance (10_state.md R34). -/

namespace Sys2Proof.Machine

/-- `ROT_A` (R7). -/
def rotA : Nat := 55

/-- `SHL_B` (R7). -/
def shlB : Nat := 14

/-- `ROT_C` (R7). -/
def rotC : Nat := 36

/-- `JC0`, the first jump constant (R7; 42_jump.md R120). -/
def jc0 : Word := 0xbeac0467eba5facb

/-- `JC1`, the second jump constant (R7; 42_jump.md R120). -/
def jc1 : Word := 0xd86b048b86aa9922

/-- `SM_GAMMA`, the SplitMix increment (R7; 40_state_mixer.md R80). -/
def smGamma : Word := 0x9e3779b97f4a7c15

/-- `SM_MUL1` (R7; 40_state_mixer.md R80). -/
def smMul1 : Word := 0xbf58476d1ce4e5b9

/-- `SM_MUL2` (R7; 40_state_mixer.md R80). -/
def smMul2 : Word := 0x94d049bb133111eb

/-- The machine's configuration: the SplitMix shifts at the spec's defaults 30, 27, 31 (40_state_mixer.md R81;
92_eei_decisions.md D18).  UNVERIFIED in the source, which gives no amounts (91_not_in_source.md N1); unsafe, log
entry 3. -/
def config : Config where
  smSh1 := 30
  smSh2 := 27
  smSh3 := 31

end Sys2Proof.Machine
end

