-- ==== Sys2Proof/Machine/Functions.lean ====
section
/-! DEFINITION. The pure functions of the rules (00_scope.md R13), each total (60_exceptions.md R160). -/

namespace Sys2Proof.Machine

/-! ## Rotation and the step function (41_step.md) -/

/-- `rotl64(x, k)`, for `k` in [1, 63] (41_step.md R100). -/
def rotl64 (x : Word) (k : Nat) : Word :=
  (x <<< k) ||| (x >>> (64 - k))

/-- `STEP(s0, s1)`: the new state pair, and the output computed from the state before the update (41_step.md R101,
R103). -/
def stepF (p : Pair) : Pair × Word :=
  let t := p.2 ^^^ p.1
  let n0 := rotl64 p.1 rotA ^^^ t ^^^ (t <<< shlB)
  let n1 := rotl64 t rotC
  ((n0, n1), p.1 + p.2)

/-- `STEP_state`, the state part of STEP (41_step.md R107; 42_jump.md R124). -/
def stepState (p : Pair) : Pair :=
  (stepF p).1

/-- The output part of STEP (41_step.md R103). -/
def stepOutput (p : Pair) : Word :=
  (stepF p).2

/-! ## The state as a vector over GF(2) -/

/-- Xor of two states, word by word (41_step.md R107). -/
def pairXor (p q : Pair) : Pair :=
  (p.1 ^^^ q.1, p.2 ^^^ q.2)

/-- The state as one 128-bit number, S1 · 2^64 + S0 (20_memory.md R42). -/
def pairVector (p : Pair) : BitVec 128 :=
  p.2 ++ p.1

/-! ## The jump function (42_jump.md) -/

/-- `JP[0..127]`: bit `j` of JC0 for `j` in 0..63, then bit `j − 64` of JC1, in increasing `j` (42_jump.md R120,
R121). -/
def jumpBits : List Bool :=
  (List.range 64).map (fun j => jc0.getLsbD j) ++ (List.range 64).map (fun j => jc1.getLsbD j)

/-- The loop of JUMPF over the bits still to do, with the accumulators and the running state: where the bit is set xor
the running state, as it stands before the step, into the accumulators; then step, whatever the bit (42_jump.md
R122). -/
def jumpLoop : List Bool → Pair → Pair → Pair
  | [], acc, _ => acc
  | b :: bs, acc, c => jumpLoop bs (if b then pairXor acc c else acc) (stepState c)

/-- `JUMPF(s0, s1)` (42_jump.md R122). -/
def jumpF (p : Pair) : Pair :=
  jumpLoop jumpBits (0#64, 0#64) p

/-! ## The state mixer (40_state_mixer.md) -/

/-- `z ^ (z >> k)`, a logical right shift (40_state_mixer.md R81, R82). -/
def xorShiftRight (z : Word) (k : Nat) : Word :=
  z ^^^ (z >>> k)

/-- `SM(x)` under a configuration: the increment first, two xor-shift-multiply rounds, a final xor-shift
(40_state_mixer.md R82). -/
def splitMixWith (c : Config) (x : Word) : Word :=
  let z0 := x + smGamma
  let z1 := xorShiftRight z0 c.smSh1 * smMul1
  let z2 := xorShiftRight z1 c.smSh2 * smMul2
  xorShiftRight z2 c.smSh3

/-- `SM(x)` of this machine (40_state_mixer.md R82). -/
def splitMix (x : Word) : Word :=
  splitMixWith config x

/-- The pair SEEDF jumps from: the seed itself, and SM of a copy of it (40_state_mixer.md R84). -/
def preJump (x : Word) : Pair :=
  (x, splitMix x)

/-- `SEEDF(x)`: one jump from the pre-jump pair (40_state_mixer.md R84). -/
def seedF (x : Word) : Pair :=
  jumpF (preJump x)

end Sys2Proof.Machine
end

