-- ==== Sys2Proof/Machine/Ops.lean ====
section
/-! DEFINITION. The shared operations over the state: reading and writing the generator state, responding, and taking
a fault. -/

namespace Sys2Proof.Machine

/-- The generator state (S0, S1) (10_state.md R20, R21). -/
def State.gen (s : State) : Pair :=
  (s.s0, s.s1)

/-- `S0 <- p.1`, `S1 <- p.2`. -/
def State.writeGen (s : State) (p : Pair) : State :=
  { s with
    s0 := p.1
    s1 := p.2 }

/-- `respond`: put the command's one response on the response channel (00_scope.md R12; 30_encoding.md R63). -/
def State.respond (s : State) (r : Response) : State :=
  { s with pending := some r }

/-- `raise Fault(code)` (60_exceptions.md R165): S0, S1 and VALID stay, the fault is recorded if it is the first, and
the response is ERR.  There is no saved state, handler or return (R169). -/
def raiseFault (c : FaultCode) (s : State) : State :=
  (s.recordFault c).respond .err

/-- What an illegal command word does, in every state: ILLEGAL_COMMAND; nothing of the word itself is recorded
(60_exceptions.md R162; 30_encoding.md R66). -/
def execIllegal (_w : Word) (s : State) : Host.Outcome State Fault Refusal :=
  .next (raiseFault .illegalCommand s)

end Sys2Proof.Machine
end

