-- ==== Sys2Proof/Machine/Generator.lean ====
section
/-! DEFINITION. NEXT, the step function's command (41_step.md). -/

namespace Sys2Proof.Machine

/-- NEXT (41_step.md R102): UNSEEDED while VALID = 0; else step the state and answer the output of the state before
(R103). -/
def execNext (s : State) : Host.Outcome State Fault Refusal :=
  if s.valid then
    .next ((s.writeGen (stepState s.gen)).respond (.ok [stepOutput s.gen]))
  else
    .next (raiseFault .unseeded s)

end Sys2Proof.Machine
end

