-- ==== Sys2Proof/Machine/Jump.lean ====
section
/-! DEFINITION. JUMP, the jump function's command (42_jump.md). -/

namespace Sys2Proof.Machine

/-- JUMP (42_jump.md R123): UNSEEDED while VALID = 0; else jump the state, with no output (R127). -/
def execJump (s : State) : Host.Outcome State Fault Refusal :=
  if s.valid then
    .next ((s.writeGen (jumpF s.gen)).respond (.ok []))
  else
    .next (raiseFault .unseeded s)

end Sys2Proof.Machine
end

