-- ==== Sys2Proof/Machine/Mixer.lean ====
section
/-! DEFINITION. SEED, the state mixer's command (40_state_mixer.md). -/

namespace Sys2Proof.Machine

/-- SEED (40_state_mixer.md R85): total over every seed and in every state (R86, R88). -/
def execSeed (seed : Word) (s : State) : Host.Outcome State Fault Refusal :=
  .next (((s.writeGen (seedF seed)).setValid).respond (.ok []))

end Sys2Proof.Machine
end

