-- ==== Sys2Proof/Machine/Operands.lean ====
section
/-! DEFINITION. What crosses the channels for each command: operand words in, result words out (30_encoding.md R62,
R63; 20_memory.md R44).  There are no register, immediate or memory operands (R61). -/

namespace Sys2Proof.Machine

/-- How many result words a command's OK response carries (30_encoding.md R64; 20_memory.md R44). -/
def resultCount (op : Opcode) : Nat :=
  match op with
  | .seed => 0
  | .next => 1
  | .jump => 0
  | .rdstate => 2
  | .ldstate => 0
  | .rdstatus => 1

/-- The result words of a response; an ERR carries none (30_encoding.md R63). -/
def Response.resultWords : Response → List Word
  | .ok ws => ws
  | .err => []

/-- LDSTATE's check: both operand words are zero (43_state_access.md R141). -/
def bothZero (a b : Word) : Bool :=
  decide (a = 0 ∧ b = 0)

end Sys2Proof.Machine
end

