-- ==== Sys2Proof/Machine/StateAccess.lean ====
section
/-! DEFINITION. RDSTATE, LDSTATE and RDSTATUS, the state access commands (43_state_access.md). -/

namespace Sys2Proof.Machine

/-- RDSTATE (43_state_access.md R140): UNSEEDED while VALID = 0; else answer S0, then S1. -/
def execRdstate (s : State) : Host.Outcome State Fault Refusal :=
  if s.valid then
    .next (s.respond (.ok [s.s0, s.s1]))
  else
    .next (raiseFault .unseeded s)

/-- LDSTATE (43_state_access.md R141): ZERO_STATE when both operands are zero; else store them verbatim and set
VALID.  VALID is not read. -/
def execLdstate (a b : Word) (s : State) : Host.Outcome State Fault Refusal :=
  if bothZero a b then
    .next (raiseFault .zeroState s)
  else
    .next (((s.writeGen (a, b)).setValid).respond (.ok []))

/-- RDSTATUS (43_state_access.md R142): legal in every state; clears nothing. -/
def execRdstatus (s : State) : Host.Outcome State Fault Refusal :=
  .next (s.respond (.ok [statusWord s]))

end Sys2Proof.Machine
end

