-- ==== Sys2Proof/Machine/Dispatch.lean ====
section
/-! DEFINITION. One arm per command of the opcode map (30_encoding.md R64). -/

namespace Sys2Proof.Machine

def exec (i : Instr) (s : State) : Host.Outcome State Fault Refusal :=
  match i with
  | .seed seed => Sys2Proof.Machine.execSeed seed s
  | .next => Sys2Proof.Machine.execNext s
  | .jump => Sys2Proof.Machine.execJump s
  | .rdstate => Sys2Proof.Machine.execRdstate s
  | .ldstate a b => Sys2Proof.Machine.execLdstate a b s
  | .rdstatus => Sys2Proof.Machine.execRdstatus s

end Sys2Proof.Machine
end

