-- ==== Sys2Proof/Machine/Step.lean ====
section
/-! DEFINITION. One step of the block and its host. -/

namespace Sys2Proof.Machine

/-- One step.  A reset comes before anything else (60_exceptions.md R168).  While a response is outstanding no command
executes (20_memory.md R47).  Otherwise a complete command, legal or illegal, executes whole (R45); and a command that
lacks words waits for them (30_encoding.md R60). -/
def step (s : State) : Host.Outcome State Fault Refusal :=
  if s.resetAsserted then .next s.hostTurn
  else
    match s.pending with
    | some _ => .next s.hostTurn
    | none =>
      match decode s.received with
      | .command i rest => exec i { s with received := rest }
      | .illegal w rest => execIllegal w { s with received := rest }
      | .incomplete => .next s.hostTurn

/-- The words of the instruction numbered by spec/opcode_table.json as `w`: its command word and as many operand words
as it has, none when the command word is illegal (30_encoding.md R65). -/
def transactionOfTableWord (nbits w : Nat) : List Word :=
  match tableWords nbits w with
  | [] => []
  | c :: ops =>
    match opcodeOfWord c with
    | none => [c]
    | some op => c :: ops.take op.nops

/-- `s` with that instruction's words received, so that the very next step runs it: no reset is asserted first, and an
outstanding response is delivered first, since the block takes no command before that (20_memory.md R47). -/
def State.withFetchWord (s : State) (nbits w : Nat) : State :=
  { s.deliver with
    received := transactionOfTableWord nbits w
    host := s.host.dropWhile HostEvent.isReset }

end Sys2Proof.Machine
end

