-- ==== Sys2Proof/Machine/Assembler.lean ====
section
/-! DEFINITION. The assembler's syntax and the pseudo-commands (30_encoding.md R69, R70).  What the rules leave open
about space, digits and the case of `.word` is log entry 10. -/

namespace Sys2Proof.Machine

/-! ## What a line assembles to -/

/-- A number as a word; a line that holds a number out of range is refused before (R69). -/
def numberWord (n : Nat) : Word :=
  BitVec.ofNat 64 n

/-- The words of a line whose numbers are in range (the tables of R69 and R70). -/
def expandLine : AsmLine → List Word
  | .seed n => encode (.seed (numberWord n))
  | .next => encode .next
  | .jump => encode .jump
  | .rdstate => encode .rdstate
  | .ldstate a b => encode (.ldstate (numberWord a) (numberWord b))
  | .rdstatus => encode .rdstatus
  | .word n => [numberWord n]
  | .skip k => (List.replicate k (encode .next)).flatten
  | .jumpn k => (List.replicate k (encode .jump)).flatten
  | .fork => encode .rdstate ++ encode .jump
  | .blank => []

/-- A line's words, or an assembler error where a number is out of range (R69). -/
def assembleLine (l : AsmLine) : Option (List Word) :=
  if l.wellFormed then some (expandLine l) else none

/-! ## Reading a line of text -/

/-- Space inside a line. -/
def isBlankChar (c : Char) : Bool :=
  c == ' ' || c == '\t' || c == '\r'

/-- A line without the space at its ends. -/
def trimChars (l : List Char) : List Char :=
  ((l.dropWhile isBlankChar).reverse.dropWhile isBlankChar).reverse

/-- "`;` starts a comment that runs to the end of the line" (R69). -/
def stripComment (l : List Char) : List Char :=
  l.takeWhile (fun c => c != ';')

/-- The pieces of a text between its separators. -/
def splitAtChar (sep : Char) : List Char → List (List Char)
  | [] => [[]]
  | c :: cs =>
    if c == sep then [] :: splitAtChar sep cs
    else
      match splitAtChar sep cs with
      | [] => [[c]]
      | p :: ps => (c :: p) :: ps

/-- The value of a digit, in base 16. -/
def digitValue (c : Char) : Option Nat :=
  if '0' ≤ c ∧ c ≤ '9' then some (c.toNat - '0'.toNat)
  else if 'a' ≤ c ∧ c ≤ 'f' then some (c.toNat - 'a'.toNat + 10)
  else if 'A' ≤ c ∧ c ≤ 'F' then some (c.toNat - 'A'.toNat + 10)
  else none

/-- Digits, most significant first, read on from a number. -/
def digitsValue (base : Nat) : List Char → Nat → Option Nat
  | [], n => some n
  | c :: cs, n =>
    match digitValue c with
    | none => none
    | some d => if d < base then digitsValue base cs (n * base + d) else none

/-- "A number is decimal or `0x`-prefixed hexadecimal" (R69). -/
def parseNumber : List Char → Option Nat
  | [] => none
  | '0' :: 'x' :: c :: cs => digitsValue 16 (c :: cs) 0
  | c :: cs => digitsValue 10 (c :: cs) 0

/-- The numbers of a line, separated by commas (R69); none where there is no text. -/
def parseOperands (l : List Char) : Option (List Nat) :=
  if trimChars l = [] then some []
  else (splitAtChar ',' l).mapM (fun p => parseNumber (trimChars p))

/-- A mnemonic, in small letters, with its numbers, as a line (the forms of R69 and R70). -/
def lineOf (mnemonic : List Char) (ns : List Nat) : Option AsmLine :=
  if mnemonic = ['s', 'e', 'e', 'd'] then
    match ns with
    | [n] => some (.seed n)
    | _ => none
  else if mnemonic = ['n', 'e', 'x', 't'] then
    match ns with
    | [] => some .next
    | _ => none
  else if mnemonic = ['j', 'u', 'm', 'p'] then
    match ns with
    | [] => some .jump
    | _ => none
  else if mnemonic = ['r', 'd', 's', 't', 'a', 't', 'e'] then
    match ns with
    | [] => some .rdstate
    | _ => none
  else if mnemonic = ['l', 'd', 's', 't', 'a', 't', 'e'] then
    match ns with
    | [a, b] => some (.ldstate a b)
    | _ => none
  else if mnemonic = ['r', 'd', 's', 't', 'a', 't', 'u', 's'] then
    match ns with
    | [] => some .rdstatus
    | _ => none
  else if mnemonic = ['.', 'w', 'o', 'r', 'd'] then
    match ns with
    | [n] => some (.word n)
    | _ => none
  else if mnemonic = ['s', 'k', 'i', 'p'] then
    match ns with
    | [k] => some (.skip k)
    | _ => none
  else if mnemonic = ['j', 'u', 'm', 'p', 'n'] then
    match ns with
    | [k] => some (.jumpn k)
    | _ => none
  else if mnemonic = ['f', 'o', 'r', 'k'] then
    match ns with
    | [] => some .fork
    | _ => none
  else none

/-- One line of text (R69): "one command per line; mnemonics are case insensitive". -/
def parseLine (l : List Char) : Option AsmLine :=
  let body := trimChars (stripComment l)
  if body = [] then some .blank
  else
    let mnemonic := (body.takeWhile (fun c => !isBlankChar c)).map Char.toLower
    match parseOperands (body.dropWhile (fun c => !isBlankChar c)) with
    | none => none
    | some ns => lineOf mnemonic ns

/-- A program text: its lines, each parsed and assembled, in order; `none` is an assembler error. -/
def assembleText (text : List Char) : Option (List Word) :=
  match (splitAtChar '\n' text).mapM (fun l => (parseLine l).bind assembleLine) with
  | none => none
  | some ws => some ws.flatten

end Sys2Proof.Machine
end

