-- ==== Sys2Proof/Machine/Checkpoint.lean ====
section
/-! DEFINITION. The host's serialisation of the two state words (20_memory.md R41; 00_scope.md R8 `HOST_BYTE_ORDER`).
It is outside the block, which moves whole words only (R40): no command and no step reads it.  Its form is log entry 14. -/

namespace Sys2Proof.Machine

/-- The eight bytes of a word, the least significant first (bit numbering of 00_scope.md R9). -/
def bytesOfWord (w : Word) : List Byte :=
  (List.range 8).map (fun i => w.extractLsb' (8 * i) 8)

/-- The word whose bytes these are, the least significant first. -/
def wordOfBytes (bs : List Byte) : Word :=
  bs.foldr (fun b w => (w <<< 8) ||| b.setWidth 64) 0

/-- Bytes listed from the least significant, put in a byte order, and back: each order is its own inverse. -/
def inByteOrder (o : ByteOrder) (bs : List Byte) : List Byte :=
  match o with
  | .littleEndian => bs
  | .bigEndian => bs.reverse

/-- The bytes of a checkpoint under a byte order: "exactly the two 64-bit words verbatim" (R41), S0 first as they travel
(R42). -/
def checkpointBytes (o : ByteOrder) (p : Pair) : List Byte :=
  inByteOrder o (bytesOfWord p.1) ++ inByteOrder o (bytesOfWord p.2)

/-- The two words of a checkpoint. -/
def checkpointPair (o : ByteOrder) (bs : List Byte) : Pair :=
  (wordOfBytes (inByteOrder o (bs.take 8)), wordOfBytes (inByteOrder o (bs.drop 8)))

/-- The checkpoint as this system's host keeps it. -/
def hostCheckpoint (p : Pair) : List Byte :=
  checkpointBytes Config.hostByteOrder p

end Sys2Proof.Machine
end

