-- ==== Sys2Proof/Machine/System.lean ====
section
/-! DEFINITION. Several instances side by side (60_exceptions.md R175): each has its own state and its own channels, and
none reads or writes another's (10_state.md R24). -/

namespace Sys2Proof.Machine

/-- A system is its instances; `N_INSTANCES` is their number (00_scope.md R8). -/
structure System where
  cores : List State
deriving DecidableEq, Repr

/-- The system has the configured number of instances. -/
def System.sized (y : System) : Prop :=
  y.cores.length = Config.nInstances

/-- Instance `k` takes a step; the others do nothing.  An instance that is not there does nothing, and an instance that
would stop stays (no instance does stop). -/
def System.stepOne (y : System) (k : Nat) : System :=
  match y.cores[k]? with
  | none => y
  | some s =>
    match step s with
    | .next t => { cores := y.cores.set k t }
    | .fault _ => y
    | .refused _ => y

/-- Instances take steps in an order the spec does not fix (60_exceptions.md R175 "no start-up order"; 20_memory.md
R49): any schedule. -/
def System.run (y : System) : List Nat → System
  | [] => y
  | k :: ks => (y.stepOne k).run ks

end Sys2Proof.Machine
end

