-- ==== Sys2Proof/Safety.lean ====
section
/-! DEFINITION. The invariants of the machine, a run and its observation (70_reset_and_hazards.md R198), and what it is
for two states to be told apart by no host. -/

namespace Sys2Proof.Machine

/-! ## Invariants -/

/-- "Whenever VALID = 1, (S0, S1) ≠ (0, 0)" (10_state.md R23). -/
def State.NonZeroWhenValid (s : State) : Prop :=
  s.valid = true → s.gen ≠ (0, 0)

/-- FCODE is 0 exactly while FAULT = 0, and else one of the codes 1, 2, 3 (10_state.md R28, R29; 60_exceptions.md
R161). -/
def State.FaultRecordLegal (s : State) : Prop :=
  if s.fault then s.fcode = 1 ∨ s.fcode = 2 ∨ s.fcode = 3 else s.fcode = 0

/-- The block holds words of one command only: what follows a complete command is empty (30_encoding.md R60), and while
a response is outstanding it holds none (20_memory.md R47).  DEDUCED: the model's form of these rules, log entry 6. -/
def State.HoldsOneCommand (s : State) : Prop :=
  (match decode s.received with
    | .command _ rest => rest = []
    | .illegal _ rest => rest = []
    | .incomplete => True) ∧
  (s.pending.isSome → s.received = [])

/-- An ERR that is still outstanding has been recorded in FAULT (60_exceptions.md R165). -/
def State.ErrIsRecorded (s : State) : Prop :=
  s.pending = some .err → s.fault = true

/-- The machine's invariant. -/
structure State.Inv (s : State) : Prop where
  nonZero : s.NonZeroWhenValid
  record : s.FaultRecordLegal
  framing : s.HoldsOneCommand
  err : s.ErrIsRecorded

/-! ## Commands as a host issues them -/

/-- A complete command as it crosses the channel: a legal one, or an illegal word, "a complete command of length one
word" (30_encoding.md R66). -/
inductive Command where
  | legal (i : Instr)
  | illegal (w : Word)
deriving DecidableEq, Repr

/-- The word of an illegal command is illegal (30_encoding.md R66). -/
def Command.wellFormed : Command → Bool
  | .legal i => i.wellFormed
  | .illegal w => !legalCommandWord w

/-- The words of a command. -/
def Command.words : Command → List Word
  | .legal i => encode i
  | .illegal w => [w]

/-- What the block does on a command. -/
def Command.exec : Command → State → Host.Outcome State Fault Refusal
  | .legal i, s => Sys2Proof.Machine.exec i s
  | .illegal w, s => execIllegal w s

/-- Issuing a command and accepting its response: what a host does that keeps its duties (70_reset_and_hazards.md
R196). -/
def Command.session (c : Command) : List HostEvent :=
  c.words.map HostEvent.send ++ [.accept]

/-- How many steps a session takes: one for each word, one to execute, one to deliver. -/
def Command.sessionSteps (c : Command) : Nat :=
  c.words.length + 2

/-- A command's whole effect, its response delivered; a state that cannot go on stays. -/
def Command.complete (s : State) (c : Command) : State :=
  match c.exec s with
  | .next t => t.deliver
  | .fault _ => s
  | .refused _ => s

/-- The composition of the commands' effects, in acceptance order (20_memory.md R51). -/
def runCommands (s : State) (cs : List Command) : State :=
  cs.foldl Command.complete s

/-- A stream of words read as commands (30_encoding.md R68), at most as many as the fuel allows; the words of a command
that is not complete are left. -/
def decodeStream : Nat → List Word → List Command × List Word
  | 0, ws => ([], ws)
  | fuel + 1, ws =>
    match decode ws with
    | .command i rest => (.legal i :: (decodeStream fuel rest).1, (decodeStream fuel rest).2)
    | .illegal w rest => (.illegal w :: (decodeStream fuel rest).1, (decodeStream fuel rest).2)
    | .incomplete => ([], ws)

/-! ## A run and its observation -/

/-- What a run shows: "the list of responses … and the final S0, S1, VALID, FAULT and FCODE (S0 and S1 only when
VALID = 1)" (70_reset_and_hazards.md R198). -/
structure Observation where
  responses : List Response
  gen : Option Pair
  valid : Bool
  fault : Bool
  fcode : Byte
deriving DecidableEq, Repr

def State.observe (s : State) : Observation where
  responses := s.delivered
  gen := if s.valid then some s.gen else none
  valid := s.valid
  fault := s.fault
  fcode := s.fcode

/-- A run is over: no command is in progress, no response is outstanding and the host does nothing more (R198). -/
def State.finished (s : State) : Bool :=
  decide (s.received = [] ∧ s.pending = none ∧ s.host = [])

/-- A safe run, in R198's words: "no command faulted" since the last reset. -/
def State.noCommandFaulted (s : State) : Bool :=
  !s.fault

/-! ## Indistinguishable states -/

/-- The two states differ at most in what S0 and S1 hold while VALID = 0 (10_state.md R35 "never observable"). -/
def SameButUnseeded (s t : State) : Prop :=
  s.valid = t.valid ∧ s.fault = t.fault ∧ s.fcode = t.fcode ∧ s.received = t.received ∧ s.pending = t.pending ∧
    s.delivered = t.delivered ∧ s.host = t.host ∧ s.drawIndex = t.drawIndex ∧ (s.valid = true → s.gen = t.gen)

end Sys2Proof.Machine
end

