-- ==== Sys2Proof/Certificates/Slice0/Obligations.lean ====
section
/-! DEFINITION. The statements for the provers.  Each docstring names the rule of spec/ it formalises. -/

open Sys2Proof Sys2Proof.Machine

/-! ## Encoding -/

/-- 30_encoding.md R64, R66 on words written out (95_test_vectors.md V-DEC-1 to V-DEC-9): the six commands, five illegal
words, one command that lacks its operand. -/
def Obligations.WordsOfTheOpcodeMapDecodeAsWritten : Prop :=
  decode [0x0000000000000001, 0x000000000000002a] = .command (.seed 0x2a) [] ∧
  decode [0x0000000000000002] = .command .next [] ∧
  decode [0x0000000000000003] = .command .jump [] ∧
  decode [0x0000000000000004] = .command .rdstate [] ∧
  decode [0x0000000000000005, 0x1, 0x2] = .command (.ldstate 1 2) [] ∧
  decode [0x0000000000000006] = .command .rdstatus [] ∧
  decode [0x0000000000000000] = .illegal 0x0 [] ∧
  decode [0x0000000000000007] = .illegal 0x7 [] ∧
  decode [0x00000000000000ff] = .illegal 0xff [] ∧
  decode [0x0000000000000102] = .illegal 0x102 [] ∧
  decode [0x8000000000000001, 0x000000000000002a] = .illegal 0x8000000000000001 [0x2a] ∧
  decode [0x0000000000000001] = .incomplete

/-- 30_encoding.md R64, R65, R68: the words of any commands, legal and illegal, sent one after another, are read back as
those commands with every operand as it was, and what follows them is left. -/
def Obligations.StreamOfEncodedCommandsDecodesToThem : Prop :=
  ∀ (cs : List Command) (tail : List Word), (∀ c ∈ cs, c.wellFormed = true) →
    decodeStream cs.length (cs.flatMap Command.words ++ tail) = (cs, tail)

/-- 30_encoding.md R64, R65, R67: a command is read from exactly the words that encode it, so each word has one
meaning. -/
def Obligations.CommandIsReadExactlyFromItsEncoding : Prop :=
  ∀ (ws : List Word) (i : Instr) (rest : List Word), decode ws = .command i rest ↔ ws = encode i ++ rest

/-- 30_encoding.md R66 and 60_exceptions.md R162: which words are illegal; an illegal word is a command of one word, it
changes nothing but the fault record and answers ERR, and the word after it comes next. -/
def Obligations.IllegalWordIsOneCommandAndFaults : Prop :=
  ∀ (w : Word) (rest : List Word),
    (decode (w :: rest) = .illegal w rest ↔
      (rsvField w ≠ 0 ∨ opcField w = 0x00 ∨ (0x07 ≤ (opcField w).toNat ∧ (opcField w).toNat ≤ 0xff))) ∧
    (∀ s : State, s.resetAsserted = false → s.pending = none → s.received = w :: rest →
      decode (w :: rest) = .illegal w rest →
        step s = .next { s with
          received := rest
          fault := true
          fcode := if s.fault then s.fcode else 1
          pending := some .err })

/-- 30_encoding.md R64: "the legal command words are exactly 0x0000000000000001 to 0x0000000000000006"; every other word
is illegal (R67). -/
def Obligations.LegalCommandWordsAreOneToSix : Prop :=
  ∀ (w : Word) (rest : List Word), decode (w :: rest) ≠ .illegal w rest ↔ (1 ≤ w.toNat ∧ w.toNat ≤ 6)

/-- 30_encoding.md R60, R65, R68: the decoder waits exactly on no word at all, and on a legal command word followed by
fewer words than NOPS. -/
def Obligations.DecoderWaitsExactlyForMissingWords : Prop :=
  ∀ ws : List Word, decode ws = .incomplete ↔
    (ws = [] ∨
      (∃ ops, ws = 0x0000000000000001 :: ops ∧ ops.length < 1) ∨
      (∃ ops, ws = 0x0000000000000005 :: ops ∧ ops.length < 2))

/-! ## A step -/

/-- The decoded command is what a step executes, whole (20_memory.md R45), with its words taken: when no reset is
asserted and no response is outstanding. -/
def Obligations.StepRunsTheDecodedCommand : Prop :=
  ∀ (s : State) (i : Instr) (rest : List Word), s.resetAsserted = false → s.pending = none →
    decode s.received = .command i rest → step s = exec i { s with received := rest }

/-- 30_encoding.md R60: a command that lacks words is held until they arrive, has no effect and does not fault.  Two
parts are the model's choice, not the rule's: that holding, while the host does nothing, is a step to the same state
(log entry 5; 93_implementation_defined.md calls such a wait `stuck`, no step), and that a step takes exactly one word
(log entry 6). -/
def Obligations.IncompleteCommandIsHeldWithNoEffect : Prop :=
  ∀ s : State, s.pending = none → decode s.received = .incomplete →
    (s.host = [] → step s = .next s) ∧
    (∀ w es, s.host = .send w :: es → step s = .next { s with host := es, received := s.received ++ [w] })

/-- 20_memory.md R47: while a response is outstanding the block accepts no new command until the response has been
delivered.  Two parts are the model's choice, not the rule's: that waiting for the host to accept is a step to the same
state (log entry 5; 93_implementation_defined.md calls such a wait `stuck`, no step), and that a word the host sends
meanwhile is not taken but stays the host's next action (log entry 6).  (A reset is another statement's.) -/
def Obligations.NoCommandIsTakenBeforeTheResponseIsDelivered : Prop :=
  ∀ (s : State) (r : Response), s.pending = some r → s.resetAsserted = false →
    (∀ es, s.host = .accept :: es →
      step s = .next { s with host := es, pending := none, delivered := s.delivered ++ [r] }) ∧
    ((∀ es, s.host ≠ .accept :: es) → step s = .next s)

/-- Every state has a next state.  Where a command executes this is the rules': the block goes on, whatever the command
(60_exceptions.md R169; 70_reset_and_hazards.md R197).  That a block which waits, for words or for its response to be
taken, has a next state too, the same state, is the model's choice (log entry 5): 93_implementation_defined.md calls
such a wait `stuck`, no step. -/
def Obligations.EveryStepAnswersANextState : Prop :=
  ∀ s : State, ∃ t, step s = .next t

/-! ## The commands: each completes, with its whole effect and its frame -/

/-- 40_state_mixer.md R84, R86 and the pseudocode and worked example of R85: SEED, for every seed and in every state, sets
S0 and S1 to one jump from (seed, SM(seed)) and VALID to 1, answers OK with no words, and changes nothing else. -/
def Obligations.SeedExpandsTheSeedAndSetsValid : Prop :=
  (∀ x : Word, encode (.seed x) = [0x0000000000000001, x]) ∧
  (∀ (x : Word) (s : State), exec (.seed x) s = .next { s with
      s0 := (jumpF (x, splitMix x)).1
      s1 := (jumpF (x, splitMix x)).2
      valid := true
      pending := some (.ok []) }) ∧
  jumpF (0, splitMix 0) = (0x46b079f2a5689271, 0x1ab0d6fd5640ba82)

/-- 41_step.md R103 and the pseudocode and worked example of R102: NEXT with VALID steps the state and answers the sum of
the words before; without it it is UNSEEDED and changes the fault record only. -/
def Obligations.NextStepsAndAnswersTheSumOrFaultsUnseeded : Prop :=
  encode .next = [0x0000000000000002] ∧
  (∀ s : State, s.valid = true → exec .next s = .next { s with
      s0 := (stepState (s.s0, s.s1)).1
      s1 := (stepState (s.s0, s.s1)).2
      pending := some (.ok [s.s0 + s.s1]) }) ∧
  (∀ s : State, s.valid = false → exec .next s = .next { s with
      fault := true
      fcode := if s.fault then s.fcode else 2
      pending := some .err }) ∧
  stepF (1, 2) = ((0x008000000000c003, 0x0000003000000000), 0x0000000000000003)

/-- The pseudocode and worked example of 42_jump.md R123: JUMP with VALID jumps the state and answers OK with no words;
without it it is UNSEEDED and changes the fault record only. -/
def Obligations.JumpAdvancesOrFaultsUnseeded : Prop :=
  encode .jump = [0x0000000000000003] ∧
  (∀ s : State, s.valid = true → exec .jump s = .next { s with
      s0 := (jumpF (s.s0, s.s1)).1
      s1 := (jumpF (s.s0, s.s1)).2
      pending := some (.ok []) }) ∧
  (∀ s : State, s.valid = false → exec .jump s = .next { s with
      fault := true
      fcode := if s.fault then s.fcode else 2
      pending := some .err }) ∧
  jumpF (1, 2) = (0x814146b67b285f30, 0x7f6ff236623b4e25)

/-- 43_state_access.md R140: RDSTATE with VALID answers S0, then S1, and changes nothing, so that a second one answers the
same; without it it is UNSEEDED and changes the fault record only; and the worked example, after SEED 0. -/
def Obligations.RdstateAnswersTheStateOrFaultsUnseeded : Prop :=
  encode .rdstate = [0x0000000000000004] ∧
  (∀ s : State, s.valid = true → exec .rdstate s = .next { s with pending := some (.ok [s.s0, s.s1]) }) ∧
  (∀ s : State, s.valid = false → exec .rdstate s = .next { s with
      fault := true
      fcode := if s.fault then s.fcode else 2
      pending := some .err }) ∧
  (∀ s : State, s.valid = true → ∃ t, exec .rdstate s = .next t ∧ exec .rdstate t = .next t) ∧
  (∀ s : State, ∃ t u, exec (.seed 0) s = .next t ∧ exec .rdstate t = .next u ∧
    u.pending = some (.ok [0x46b079f2a5689271, 0x1ab0d6fd5640ba82]))

/-- 43_state_access.md R141: LDSTATE, whatever VALID: a pair that is not (0, 0), one word of it zero or not, is stored
verbatim and VALID set; (0, 0) is ZERO_STATE and changes the fault record only; and the worked example. -/
def Obligations.LdstateStoresItsOperandsOrFaultsZeroState : Prop :=
  (∀ a b : Word, encode (.ldstate a b) = [0x0000000000000005, a, b]) ∧
  (∀ (a b : Word) (s : State), ¬(a = 0 ∧ b = 0) → exec (.ldstate a b) s = .next { s with
      s0 := a
      s1 := b
      valid := true
      pending := some (.ok []) }) ∧
  (∀ s : State, exec (.ldstate 0 0) s = .next { s with
      fault := true
      fcode := if s.fault then s.fcode else 3
      pending := some .err }) ∧
  (∀ s : State, ∃ t u, exec (.ldstate 1 2) s = .next t ∧ exec .rdstate t = .next u ∧
    u.pending = some (.ok [0x0000000000000001, 0x0000000000000002]))

/-- 43_state_access.md R142: RDSTATUS, in every state; and its three worked examples: just after reset, after SEED, and
after a NEXT while unseeded. -/
def Obligations.RdstatusAnswersTheStatusWord : Prop :=
  encode .rdstatus = [0x0000000000000006] ∧
  (∀ s : State, exec .rdstatus s = .next { s with
      pending := some (.ok [(s.fcode.setWidth 64 <<< 8) ||| ((BitVec.ofBool s.fault).setWidth 64 <<< 1) |||
        (BitVec.ofBool s.valid).setWidth 64]) }) ∧
  (∃ t, exec .rdstatus State.reset = .next t ∧ t.pending = some (.ok [0x0000000000000000])) ∧
  (∃ t u, exec (.seed 0) State.reset = .next t ∧ exec .rdstatus t = .next u ∧
    u.pending = some (.ok [0x0000000000000001])) ∧
  (∃ t u, exec .next State.reset = .next t ∧ exec .rdstatus t = .next u ∧
    u.pending = some (.ok [0x0000000000000202]))

/-- The frame of every command, legal or illegal, on the channels: it takes no further word, delivers nothing, and the
host's actions and the model's own draw counter stay (20_memory.md R45). -/
def Obligations.CommandsLeaveTheChannelsAlone : Prop :=
  ∀ (c : Command) (s t : State), c.exec s = .next t →
    t.received = s.received ∧ t.delivered = s.delivered ∧ t.host = s.host ∧ t.drawIndex = s.drawIndex

/-! ## The pure functions, said another way -/

/-- 41_step.md R100: the rotation, where it sends each bit, and its inverse. -/
def Obligations.RotationMovesEachBitAndIsUndone : Prop :=
  rotA = 55 ∧ rotC = 36 ∧
  ∀ (x : Word) (k : Nat), 1 ≤ k → k ≤ 63 →
    rotl64 x k = (x <<< k) ||| (x >>> (64 - k)) ∧
    (∀ i, i < 64 → (rotl64 x k).getLsbD ((i + k) % 64) = x.getLsbD i) ∧
    rotl64 (rotl64 x k) (64 - k) = x

/-- 41_step.md R101, bit by bit and with the sum as a number: bit i of the new S0 is bit i of rotl(s0, 55), of t and of
t << 14; bit i of the new S1 is bit i of rotl(t, 36); t is s1 ^ s0; the output is s0 + s1 modulo 2^64. -/
def Obligations.StepComputesTheRecurrenceBitByBit : Prop :=
  ∀ a b : Word,
    (stepF (a, b)).2.toNat = (a.toNat + b.toNat) % 2 ^ 64 ∧
    ∀ i, i < 64 →
      (stepF (a, b)).1.1.getLsbD i =
        ((a.getLsbD ((i + 9) % 64) ^^ (b.getLsbD i ^^ a.getLsbD i)) ^^
          (decide (14 ≤ i) && (b.getLsbD (i - 14) ^^ a.getLsbD (i - 14)))) ∧
      (stepF (a, b)).1.2.getLsbD i = (b.getLsbD ((i + 28) % 64) ^^ a.getLsbD ((i + 28) % 64))

/-- 41_step.md R104: the corner cases of STEP. -/
def Obligations.StepCornerCases : Prop :=
  (∀ a b : Word, 2 ^ 64 ≤ a.toNat + b.toNat → (stepF (a, b)).2.toNat = a.toNat + b.toNat - 2 ^ 64) ∧
  (stepF (0xffffffffffffffff, 0x0000000000000001)).2 = 0 ∧
  (stepF (0x8000000000000000, 0x8000000000000000)).2 = 0 ∧
  (∀ a : Word, (stepF (a, a)).1 = (rotl64 a 55, 0)) ∧
  (∀ a : Word, (stepF (a, 0)).1 = (rotl64 a 55 ^^^ a ^^^ (a <<< 14), rotl64 a 36)) ∧
  stepF (0, 0) = ((0, 0), 0)

/-- 41_step.md R107: on the 128-bit vector S1 · 2^64 + S0 (20_memory.md R42), the state update is linear over GF(2) and a bijection, (0, 0) goes to itself and no other state
does; the output is not linear. -/
def Obligations.StepIsALinearBijection : Prop :=
  (∀ p : Pair, (pairVector p).toNat = p.2.toNat * 2 ^ 64 + p.1.toNat) ∧
  (∀ u v : Pair, pairVector (pairXor u v) = pairVector u ^^^ pairVector v) ∧
  (∀ u v : Pair, stepState (pairXor u v) = pairXor (stepState u) (stepState v)) ∧
  Function.Bijective stepState ∧
  stepState (0, 0) = (0, 0) ∧
  (∀ p : Pair, p ≠ (0, 0) → stepState p ≠ (0, 0)) ∧
  ¬ (∀ u v : Pair, stepOutput (pairXor u v) = stepOutput u ^^^ stepOutput v)

/-- 41_step.md R105: from any non-zero state STEP comes back after exactly 2^128 − 1 steps and not before, and visits
every non-zero state once. -/
def Obligations.PeriodIsTwoToThe128MinusOne : Prop :=
  ∀ p : Pair, p ≠ (0, 0) →
    stepState^[2 ^ 128 - 1] p = p ∧
    (∀ n, 0 < n → n < 2 ^ 128 - 1 → stepState^[n] p ≠ p) ∧
    (∀ q : Pair, q ≠ (0, 0) → ∃! n, n < 2 ^ 128 - 1 ∧ stepState^[n] p = q)

/-- 42_jump.md R120, R121: JP[0..127] is JC0 then JC1, each least significant bit first; as one number, JC1 · 2^64 + JC0
with bit j at position j. -/
def Obligations.JumpBitsAreTheConstantsLeastSignificantFirst : Prop :=
  jumpBits.length = 128 ∧
  (∀ j, j < 64 → jumpBits[j]? = some ((0xbeac0467eba5facb : BitVec 64).getLsbD j) ∧
    jumpBits[64 + j]? = some ((0xd86b048b86aa9922 : BitVec 64).getLsbD j)) ∧
  (∀ j, j < 128 → jumpBits[j]? = some ((0xd86b048b86aa9922beac0467eba5facb : BitVec 128).getLsbD j))

/-- 42_jump.md R122, without the loop: JUMPF xors together the states after j steps, for the positions j whose bit of JP
is set, each taken before the j-th step. -/
def Obligations.JumpXorsTheStatesAtTheSetBits : Prop :=
  ∀ p : Pair,
    jumpF p =
      (((List.range 128).filter (fun j => (0xd86b048b86aa9922beac0467eba5facb : BitVec 128).getLsbD j)).map
        (fun j => stepState^[j] p)).foldr pairXor (0, 0)

/-- 42_jump.md R124: "the law then holds as a theorem: for every state `s`, `JUMPF(s) = STEP_state^(2^64)(s)`", and the
next output after a jump is that of the (2^64 + 1)-th step. -/
def Obligations.JumpEqualsTwoToThe64Steps : Prop :=
  ∀ p : Pair, jumpF p = stepState^[2 ^ 64] p ∧ stepOutput (jumpF p) = stepOutput (stepState^[2 ^ 64] p)

/-- 42_jump.md R125: JUMPF is linear and a bijection, keeps zero zero and non-zero non-zero, and commutes with the step;
k jumps are k · 2^64 steps, and 2^64 jumps are one step. -/
def Obligations.JumpIsALinearBijectionThatCommutesWithStep : Prop :=
  (∀ u v : Pair, jumpF (pairXor u v) = pairXor (jumpF u) (jumpF v)) ∧
  jumpF (0, 0) = (0, 0) ∧
  Function.Bijective jumpF ∧
  (∀ p : Pair, p ≠ (0, 0) → jumpF p ≠ (0, 0)) ∧
  (∀ p : Pair, jumpF (stepState p) = stepState (jumpF p)) ∧
  (∀ (k : Nat) (p : Pair), jumpF^[k] p = stepState^[k * 2 ^ 64] p) ∧
  (∀ p : Pair, jumpF^[2 ^ 64] p = stepState p)

/-- 42_jump.md R126: stream k begins at JUMPF^k(x); streams 0 to 2^64 − 2 are pairwise disjoint, and so are streams 1 to
2^64 − 1; the last state of stream 2^64 − 1 is x; stream 2^64 is stream 0 shifted by one step. -/
def Obligations.StreamsAreDisjointUpToTheLast : Prop :=
  ∀ x : Pair, x ≠ (0, 0) →
    (∀ k : Nat, stepState^[k * 2 ^ 64 + 0] x = jumpF^[k] x) ∧
    (∀ k l i j : Nat, k < l → i < 2 ^ 64 → j < 2 ^ 64 → (l ≤ 2 ^ 64 - 2 ∨ (1 ≤ k ∧ l ≤ 2 ^ 64 - 1)) →
      stepState^[k * 2 ^ 64 + i] x ≠ stepState^[l * 2 ^ 64 + j] x) ∧
    stepState^[(2 ^ 64 - 1) * 2 ^ 64 + (2 ^ 64 - 1)] x = x ∧
    (∀ i : Nat, stepState^[2 ^ 64 * 2 ^ 64 + i] x = stepState^[0 * 2 ^ 64 + (i + 1)] x)

/-- 40_state_mixer.md R82 with the defaults of R81, over the natural numbers: the wraps, the shifts and the products
written out. -/
def Obligations.SplitMixComputesItsRoundsModuloTwoToThe64 : Prop :=
  ∀ x : Word,
    (splitMix x).toNat =
      let z0 := (x.toNat + 0x9e3779b97f4a7c15) % 2 ^ 64
      let z1 := ((z0 ^^^ (z0 / 2 ^ 30)) * 0xbf58476d1ce4e5b9) % 2 ^ 64
      let z2 := ((z1 ^^^ (z1 / 2 ^ 27)) * 0x94d049bb133111eb) % 2 ^ 64
      z2 ^^^ (z2 / 2 ^ 31)

/-- 40_state_mixer.md R83: SM is a bijection that is 0 at one word only, for any shift amounts in [1, 63]; with the
defaults, SM(0) is as the rule gives it. -/
def Obligations.SplitMixIsABijectionWithOneZero : Prop :=
  (∀ c : Config, 1 ≤ c.smSh1 → c.smSh1 ≤ 63 → 1 ≤ c.smSh2 → c.smSh2 ≤ 63 → 1 ≤ c.smSh3 → c.smSh3 ≤ 63 →
    Function.Bijective (splitMixWith c) ∧ ∀ x : Word, splitMixWith c x = 0 ↔ x = 0x61c8864680b583eb) ∧
  splitMix 0x61c8864680b583eb = 0 ∧
  splitMix 0 = 0xe220a8397b1dcdaf

/-- 40_state_mixer.md R87: "for every seed `x`, `SEEDF(x) ≠ (0, 0)`". -/
def Obligations.SeedNeverYieldsTheZeroState : Prop :=
  ∀ x : Word, seedF x ≠ (0, 0)

/-- 40_state_mixer.md R88: SEED may be issued in any state, and S0 and S1 after it depend on the seed alone. -/
def Obligations.SeedResultDependsOnTheSeedAlone : Prop :=
  ∀ (x : Word) (s s' : State), ∃ t t', exec (.seed x) s = .next t ∧ exec (.seed x) s' = .next t' ∧
    t.s0 = t'.s0 ∧ t.s1 = t'.s1 ∧ t.valid = true ∧ t'.valid = true

/-! ## Faults and the status fields -/

/-- 60_exceptions.md R161 to R164, R167: a command answers ERR exactly for the causes of the table, and the first fault
records its cause's code. -/
def Obligations.CommandsFaultExactlyForTheirCauses : Prop :=
  ∀ (c : Command) (s : State), ∃ t, c.exec s = .next t ∧
    (t.pending = some .err ↔
      ((∃ w, c = .illegal w) ∨
        (s.valid = false ∧ (c = .legal .next ∨ c = .legal .jump ∨ c = .legal .rdstate)) ∨
        c = .legal (.ldstate 0 0))) ∧
    (s.fault = false →
      ((∃ w, c = .illegal w) → t.fcode = 1) ∧
      (s.valid = false → (c = .legal .next ∨ c = .legal .jump ∨ c = .legal .rdstate) → t.fcode = 2) ∧
      (c = .legal (.ldstate 0 0) → t.fcode = 3))

/-- 60_exceptions.md R165: what a fault does, on every command that answers ERR: S0, S1 and VALID are as they were, and
so is every other field but the fault record and the response; the first fault records the code of its cause (R161): 1
for an illegal word, 3 for LDSTATE, 2 for the rest. -/
def Obligations.FaultingCommandChangesOnlyTheFaultRecord : Prop :=
  ∀ (c : Command) (s t : State), c.exec s = .next t → t.pending = some .err →
    t = { s with
      fault := true
      fcode :=
        if s.fault then s.fcode
        else
          match c with
          | .illegal _ => 1
          | .legal (.ldstate _ _) => 3
          | .legal _ => 2
      pending := some .err }

/-- 10_state.md R27, R28 and 60_exceptions.md R169: but for reset, FAULT once set stays set and FCODE stays what the
first fault made it; a command that answers ERR leaves FAULT set, and no other step sets it. -/
def Obligations.FaultRecordIsStickyUntilReset : Prop :=
  ∀ s t : State, s.resetAsserted = false → step s = .next t →
    (s.fault = true → t.fault = true ∧ t.fcode = s.fcode) ∧
    (s.pending = none → t.pending = some .err → t.fault = true) ∧
    (s.fault = false → t.fault = true → s.pending = none ∧ t.pending = some .err) ∧
    (s.fault = false → t.fault = false → t.fcode = s.fcode)

/-- 10_state.md R26: but for reset, VALID once set stays set, and it becomes set only by SEED, or by LDSTATE of a pair
that is not (0, 0). -/
def Obligations.ValidIsSetOnlyBySeedAndLdstate : Prop :=
  ∀ s t : State, s.resetAsserted = false → step s = .next t →
    (s.valid = true → t.valid = true) ∧
    (s.valid = false → t.valid = true → s.pending = none ∧ ∃ i rest, decode s.received = .command i rest ∧
      ((∃ x, i = .seed x) ∨ (∃ a b, i = .ldstate a b ∧ ¬(a = 0 ∧ b = 0))))

/-- 10_state.md R22: but for reset, S0 and S1 change only in a step that executes SEED, NEXT or JUMP with VALID, or
LDSTATE of a pair that is not (0, 0). -/
def Obligations.OnlyFourCommandsWriteTheGeneratorState : Prop :=
  ∀ s t : State, s.resetAsserted = false → step s = .next t → (t.s0 ≠ s.s0 ∨ t.s1 ≠ s.s1) →
    s.pending = none ∧ ∃ i rest, decode s.received = .command i rest ∧
      ((∃ x, i = .seed x) ∨ (s.valid = true ∧ (i = .next ∨ i = .jump)) ∨
        (∃ a b, i = .ldstate a b ∧ ¬(a = 0 ∧ b = 0)))

/-- 10_state.md R29: the STATUS word bit by bit; every reserved bit reads as 0. -/
def Obligations.StatusWordLayoutBitByBit : Prop :=
  ∀ (s : State) (i : Nat), i < 64 →
    (statusWord s).getLsbD i =
      if i = 0 then s.valid
      else if i = 1 then s.fault
      else if 8 ≤ i ∧ i ≤ 15 then s.fcode.getLsbD (i - 8)
      else false

/-- 30_encoding.md R63, R64 and 20_memory.md R44: every legal command gives exactly one response, whose status is 0 for
OK and 1 for ERR, with the opcode's number of result words on OK and none on ERR. -/
def Obligations.ResponsesCarryTheOpcodesResultWords : Prop :=
  (∀ (i : Instr) (s : State), ∃ t r, exec i s = .next t ∧ t.pending = some r ∧
    ((∃ ws, r = .ok ws) ↔ r.rstat = 0) ∧ (r = .err ↔ r.rstat = 1) ∧
    (r.rstat = 1 → r.resultWords = []) ∧
    (r.rstat = 0 → r.resultWords.length = resultCount i.opcode)) ∧
  resultCount .seed = 0 ∧ resultCount .next = 1 ∧ resultCount .jump = 0 ∧ resultCount .rdstate = 2 ∧
    resultCount .ldstate = 0 ∧ resultCount .rdstatus = 1

/-- 43_state_access.md R143: the two words RDSTATE answers in a valid state, loaded in the same order into any state,
bring S0 and S1 back bit for bit, and so every output after. -/
def Obligations.SavedStateIsRestoredBitForBit : Prop :=
  ∀ s : State, s.NonZeroWhenValid → s.valid = true → ∃ t a b, exec .rdstate s = .next t ∧
    t.pending = some (.ok [a, b]) ∧
    ∀ u : State, ∃ v, exec (.ldstate a b) u = .next v ∧ v.pending = some (.ok []) ∧ v.valid = true ∧
      v.s0 = s.s0 ∧ v.s1 = s.s1 ∧
      ∀ n, stepOutput (stepState^[n] v.gen) = stepOutput (stepState^[n] s.gen)

/-- 20_memory.md R46 on five of the commands: SEED, LDSTATE, RDSTATE and RDSTATUS repeated leave the same state and give
the same response; two NEXT in a row answer the outputs of two successive steps.  (JUMP, which R46 says is not
idempotent, is not in this statement.) -/
def Obligations.SeedLdstateRdstateRdstatusAreIdempotentTwoNextStepTwice : Prop :=
  (∀ (i : Instr) (s : State), ((∃ x, i = .seed x) ∨ (∃ a b, i = .ldstate a b) ∨ i = .rdstate ∨ i = .rdstatus) →
    ∃ t, exec i s = .next t ∧ exec i t = .next t) ∧
  (∀ s : State, s.valid = true → ∃ t u, exec .next s = .next t ∧ exec .next t = .next u ∧
    t.pending = some (.ok [stepOutput s.gen]) ∧ u.pending = some (.ok [stepOutput (stepState s.gen)]) ∧
    u.gen = stepState (stepState s.gen))

/-! ## Reset -/

/-- 10_state.md R35: the values the spec gives for reset.  That no word is held and no response is outstanding at
State.reset is the model's reading of 70_reset_and_hazards.md R191, R192 (log entry 8). -/
def Obligations.ResetClearsTheStatusFields : Prop :=
  State.reset.valid = false ∧ State.reset.fault = false ∧ State.reset.fcode = 0 ∧ statusWord State.reset = 0 ∧
    State.reset.received = [] ∧ State.reset.pending = none

/-- 60_exceptions.md R168, R176 and 70_reset_and_hazards.md R190, R191: a reset, by its input or by power, comes before
whatever command is in progress, which delivers nothing; the status fields are 0 and the words received are gone.  That
a response not yet accepted is dropped, and that `delivered` and `host` stay, is the model's (log entry 8). -/
def Obligations.ResetAbandonsTheCommandInProgress : Prop :=
  ∀ (s : State) (e : HostEvent) (es : List HostEvent), s.host = e :: es → (e = .reset ∨ e = .powerCycle) →
    ∃ t, step s = .next t ∧ t.valid = false ∧ t.fault = false ∧ t.fcode = 0 ∧ statusWord t = 0 ∧ t.received = [] ∧
      t.pending = none ∧ t.delivered = s.delivered ∧ t.host = es

/-- 70_reset_and_hazards.md R191: a command whose response was not delivered before a reset leaves no trace: the state
after the reset is the one a reset before the command would have left.  That a command is cut either before it executes
or before its response is taken is the model's form of the rule (log entry 9).  That S0 and S1 are equal too after the
two resets is the model's choice, not the spec's: R35 leaves them unspecified, and the model's free draws are a function
of `drawIndex` (log entries 1 and 2). -/
def Obligations.UndeliveredCommandLeavesNoTraceAfterReset : Prop :=
  ∀ (c : Command) (s t : State), c.exec s = .next t → t.assertReset = s.assertReset

/-! ## Invariants and whole runs -/

/-- The machine right after reset meets the invariant: R23 and the legal fault record (10_state.md R23, R28, R35), one
command held at a time (30_encoding.md R60, 20_memory.md R47; the model's form of them, log entry 6), and no ERR
unrecorded (60_exceptions.md R165).  That both channels are empty at State.reset is the model's reading of
70_reset_and_hazards.md R191, R192 (log entry 8). -/
def Obligations.ResetMeetsTheInvariant : Prop :=
  State.reset.Inv

/-- 10_state.md R23: "Whenever `VALID = 1`, `(S0, S1) ≠ (0, 0)`" is kept by every step, whatever the command and
whatever the host does. -/
def Obligations.EveryStepKeepsAValidStateNonZero : Prop :=
  State.reset.NonZeroWhenValid ∧
  ∀ s t : State, s.NonZeroWhenValid → step s = .next t → t.NonZeroWhenValid

/-- Every step keeps the whole invariant: R23, the legal values of the fault record (10_state.md R28, R29), one command
held at a time (30_encoding.md R60, 20_memory.md R47; the model's form of them, log entry 6), and no ERR unrecorded (60_exceptions.md
R165). -/
def Obligations.EveryStepKeepsTheInvariant : Prop :=
  ∀ s t : State, s.Inv → step s = .next t → t.Inv

/-- 10_state.md R35: S0 and S1 are "never observable" while VALID = 0: two states that differ in nothing else stay so
through any number of steps of any host, with the same responses, and so no claim can rest on the reset values. -/
def Obligations.UnseededStateIsNeverObservable : Prop :=
  ∀ (n : Nat) (s t : State), SameButUnseeded s t →
    ∃ s' t', Host.Core.run Sys2Proof.core n s = .next s' ∧ Host.Core.run Sys2Proof.core n t = .next t' ∧
      SameButUnseeded s' t' ∧ s'.observe = t'.observe

/-- 20_memory.md R45, R47, R51: a host that sends commands and accepts each response gets exactly the composition of the
commands' effects in acceptance order; and when the host does nothing more, the run is then over (70_reset_and_hazards.md R198).  For every sequence
of commands, so for every interleaving of several issuers' commands (R50).  The number of steps it takes, one for each
word, each command and each response, is no rule's: it is the model's choice, where words arrive one a step and a
command executes in one step, the one after its last word (log entries 6 and 9). -/
def Obligations.HostSessionsRunAsTheCompositionOfCommands : Prop :=
  ∀ (cs : List Command) (s : State) (later : List HostEvent), (∀ c ∈ cs, c.wellFormed = true) →
    s.received = [] → s.pending = none →
    Host.Core.run Sys2Proof.core ((cs.map Command.sessionSteps).sum)
        { s with host := cs.flatMap Command.session ++ later } =
      .next (runCommands { s with host := later } cs) ∧
    (later = [] → (runCommands { s with host := later } cs).finished = true)

/-- 30_encoding.md R63 and 70_reset_and_hazards.md R198: a sequence of commands delivers one response each, in order,
and FAULT at its end says whether any of them was ERR. -/
def Obligations.FaultAtTheEndTellsWhetherACommandFaulted : Prop :=
  ∀ (cs : List Command) (s : State), s.noCommandFaulted = true →
    ∃ rs : List Response, (runCommands s cs).delivered = s.delivered ++ rs ∧ rs.length = cs.length ∧
      ((runCommands s cs).noCommandFaulted = true ↔ Response.err ∉ rs)

/-- 40_state_mixer.md R89: "two independently seeded generators from the same `s` produce identical output sequences for
any number of `next`/`jump` calls", whatever state each was in before. -/
def Obligations.EqualSeedsGiveEqualOutputs : Prop :=
  ∀ (x : Word) (cs : List Command) (s s' : State), (∀ c ∈ cs, c = .legal .next ∨ c = .legal .jump) →
    ∃ rs : List Response,
      (runCommands s (.legal (.seed x) :: cs)).delivered = s.delivered ++ rs ∧
      (runCommands s' (.legal (.seed x) :: cs)).delivered = s'.delivered ++ rs ∧
      Response.err ∉ rs ∧
      (runCommands s (.legal (.seed x) :: cs)).gen = (runCommands s' (.legal (.seed x) :: cs)).gen

/-- 60_exceptions.md R175: what an instance is after any schedule depends on that instance alone, and an instance that
is not scheduled does not change.  That a system is a list of instances under a schedule is the model's choice (log
entry 13).  So is the equality, after a reset, of S0 and S1 of one instance in two systems: R35 leaves them unspecified,
and the model's free draws are a function of the instance's own `drawIndex` (log entries 1 and 2). -/
def Obligations.InstancesDoNotAffectEachOther : Prop :=
  (∀ (y z : System) (schedule : List Nat) (k : Nat), y.cores[k]? = z.cores[k]? →
    (y.run schedule).cores[k]? = (z.run schedule).cores[k]?) ∧
  (∀ (y : System) (schedule : List Nat) (k : Nat), k ∉ schedule → (y.run schedule).cores[k]? = y.cores[k]?) ∧
  (∀ (y : System) (schedule : List Nat), y.sized → (y.run schedule).sized)

/-! ## The assembler -/

/-- 30_encoding.md R69, R70: what each line, already parsed, encodes as, and that a number of 2^64 or more is an assembler
error.  That the counts of SKIP and JUMPN are such numbers, so that a count of 2^64 or more is an error, is the model's
choice (log entry 10): R70 says only that a count is 0 or more.  (Reading the text of a line is
`AssemblerTextIsReadAsItsLines`.) -/
def Obligations.AssemblerEncodesLinesAndPseudoCommands : Prop :=
  (∀ n, n < 2 ^ 64 → assembleLine (.seed n) = some [0x0000000000000001, BitVec.ofNat 64 n]) ∧
  assembleLine .next = some [0x0000000000000002] ∧
  assembleLine .jump = some [0x0000000000000003] ∧
  assembleLine .rdstate = some [0x0000000000000004] ∧
  (∀ a b, a < 2 ^ 64 → b < 2 ^ 64 →
    assembleLine (.ldstate a b) = some [0x0000000000000005, BitVec.ofNat 64 a, BitVec.ofNat 64 b]) ∧
  assembleLine .rdstatus = some [0x0000000000000006] ∧
  (∀ n, n < 2 ^ 64 → assembleLine (.word n) = some [BitVec.ofNat 64 n]) ∧
  (∀ k, k < 2 ^ 64 → assembleLine (.skip k) = some (List.replicate k 0x0000000000000002)) ∧
  (∀ k, k < 2 ^ 64 → assembleLine (.jumpn k) = some (List.replicate k 0x0000000000000003)) ∧
  assembleLine .fork = some [0x0000000000000004, 0x0000000000000003] ∧
  (∀ n, 2 ^ 64 ≤ n → assembleLine (.seed n) = none ∧ assembleLine (.word n) = none ∧
    assembleLine (.skip n) = none ∧ assembleLine (.jumpn n) = none) ∧
  (∀ a b, 2 ^ 64 ≤ a ∨ 2 ^ 64 ≤ b → assembleLine (.ldstate a b) = none)

/-- 30_encoding.md R69, R70 on text: each form, with the mnemonic in any mixture of cases and each number in decimal or
with `0x` in hexadecimal, is read as its line; a comment runs to the end of the line; a number out of range is an
assembler error.  (Which further space, digits and cases are read is log entry 10, and not in this statement.) -/
def Obligations.AssemblerTextIsReadAsItsLines : Prop :=
  (∀ (n : Nat) (d : List Char), (d = Nat.toDigits 10 n ∨ d = '0' :: 'x' :: Nat.toDigits 16 n) →
    (∀ m : List Char, m.map Char.toLower = ['s', 'e', 'e', 'd'] → parseLine (m ++ ' ' :: d) = some (.seed n) ∧
      (2 ^ 64 ≤ n → (parseLine (m ++ ' ' :: d)).bind assembleLine = none)) ∧
    (∀ m : List Char, m.map Char.toLower = ['s', 'k', 'i', 'p'] → parseLine (m ++ ' ' :: d) = some (.skip n)) ∧
    (∀ m : List Char, m.map Char.toLower = ['j', 'u', 'm', 'p', 'n'] → parseLine (m ++ ' ' :: d) = some (.jumpn n)) ∧
    parseLine (['.', 'w', 'o', 'r', 'd', ' '] ++ d) = some (.word n)) ∧
  (∀ (a b : Nat) (c d : List Char), (c = Nat.toDigits 10 a ∨ c = '0' :: 'x' :: Nat.toDigits 16 a) →
    (d = Nat.toDigits 10 b ∨ d = '0' :: 'x' :: Nat.toDigits 16 b) →
    ∀ m : List Char, m.map Char.toLower = ['l', 'd', 's', 't', 'a', 't', 'e'] →
      parseLine (m ++ ' ' :: c ++ ',' :: ' ' :: d) = some (.ldstate a b)) ∧
  (∀ m : List Char,
    (m.map Char.toLower = ['n', 'e', 'x', 't'] → parseLine m = some .next) ∧
    (m.map Char.toLower = ['j', 'u', 'm', 'p'] → parseLine m = some .jump) ∧
    (m.map Char.toLower = ['r', 'd', 's', 't', 'a', 't', 'e'] → parseLine m = some .rdstate) ∧
    (m.map Char.toLower = ['r', 'd', 's', 't', 'a', 't', 'u', 's'] → parseLine m = some .rdstatus) ∧
    (m.map Char.toLower = ['f', 'o', 'r', 'k'] → parseLine m = some .fork)) ∧
  (∀ l comment : List Char, parseLine (l ++ ';' :: comment) = parseLine l)

/-! ## The host's checkpoints -/

/-- 20_memory.md R41 with 43_state_access.md R143: whichever byte order the host keeps a checkpoint in, its sixteen bytes
are the two words verbatim, and the words read back from them, loaded by LDSTATE, restore the valid state they were
taken from.  That the bytes of S0 come first, and that the byte order is one of two, is the model's choice (log entry
14). -/
def Obligations.CheckpointBytesRestoreTheStateInEitherByteOrder : Prop :=
  (∀ (w : Word) (i : Nat), i < 8 →
    (inByteOrder .littleEndian (bytesOfWord w))[i]? = some (w.extractLsb' (8 * i) 8) ∧
    (inByteOrder .bigEndian (bytesOfWord w))[i]? = some (w.extractLsb' (8 * (7 - i)) 8)) ∧
  (∀ (o : ByteOrder) (p : Pair), (checkpointBytes o p).length = 16 ∧ checkpointPair o (checkpointBytes o p) = p) ∧
  (∀ s : State, s.NonZeroWhenValid → s.valid = true → ∃ t a b, exec .rdstate s = .next t ∧
    t.pending = some (.ok [a, b]) ∧
    ∀ u : State, ∃ v,
      exec (.ldstate (checkpointPair Config.hostByteOrder (hostCheckpoint (a, b))).1
        (checkpointPair Config.hostByteOrder (hostCheckpoint (a, b))).2) u = .next v ∧
      v.valid = true ∧ v.s0 = s.s0 ∧ v.s1 = s.s1)
end

