-- ==== Sys2Proof/Laws/Checkpoint.lean ====
section
/-! SUPPORT. The small lemmas of the host's serialisation. -/

namespace Sys2Proof.Machine

@[simp] theorem length_bytesOfWord (w : Word) : (bytesOfWord w).length = 8 := by
  simp [bytesOfWord]

@[simp] theorem length_inByteOrder (o : ByteOrder) (bs : List Byte) : (inByteOrder o bs).length = bs.length := by
  cases o <;> simp [inByteOrder]

@[simp] theorem inByteOrder_inByteOrder (o : ByteOrder) (bs : List Byte) : inByteOrder o (inByteOrder o bs) = bs := by
  cases o <;> simp [inByteOrder]

end Sys2Proof.Machine
end

