-- ==== Sys2Proof/Laws/Decode.lean ====
section
/-! SUPPORT. Equations of the decoder and the encoder. -/

namespace Sys2Proof

@[simp] theorem decode_nil : decode [] = .incomplete := rfl

/-- An illegal command word is a command of one word. -/
theorem decode_cons_illegal {w : Word} (rest : List Word) (h : opcodeOfWord w = none) :
    decode (w :: rest) = .illegal w rest := by
  simp [decode, h]

/-- A legal command word with too few words after it. -/
theorem decode_cons_incomplete {w : Word} {op : Opcode} {rest : List Word} (h : opcodeOfWord w = some op)
    (hl : rest.length < op.nops) : decode (w :: rest) = .incomplete := by
  simp [decode, h, hl]

/-- A legal command word with its operand words after it. -/
theorem decode_cons_command {w : Word} {op : Opcode} {rest : List Word} (h : opcodeOfWord w = some op)
    (hl : op.nops ≤ rest.length) :
    decode (w :: rest) = .command (op.command (rest.take op.nops)) (rest.drop op.nops) := by
  simp [decode, h, Nat.not_lt.mpr hl]

/-- The command word of an opcode is read as that opcode. -/
@[simp] theorem opcodeOfWord_commandWord (op : Opcode) : opcodeOfWord op.commandWord = some op := by
  cases op <;> rfl

/-- A value of OPC names the opcode it is the value of, and no other. -/
theorem opcodeOfValue_eq_some {b : Byte} {op : Opcode} : opcodeOfValue b = some op ↔ b = op.value := by
  constructor
  · intro h
    unfold opcodeOfValue at h
    repeat' split at h
    all_goals first | (cases h; assumption) | cases h
  · rintro rfl
    cases op <;> rfl

/-- An instruction has as many operand words as its opcode says. -/
@[simp] theorem length_operandWords (i : Instr) : i.operandWords.length = i.opcode.nops := by
  cases i <;> rfl

/-- An opcode makes of an instruction's operand words that instruction. -/
@[simp] theorem command_operandWords (i : Instr) : i.opcode.command i.operandWords = i := by
  cases i <;> rfl

@[simp] theorem length_encode (i : Instr) : (encode i).length = i.opcode.nops + 1 := by
  simp [encode]

end Sys2Proof
end

