-- ==== Sys2Proof/Laws/Functions.lean ====
section
/-! SUPPORT. The equations of the pure functions, one a shape, so that a proof cites them and unfolds nothing. -/

namespace Sys2Proof.Machine

/-! ## STEP -/

/-- The first word of the stepped state. -/
theorem stepState_fst (p : Pair) :
    (stepState p).1 = rotl64 p.1 55 ^^^ (p.2 ^^^ p.1) ^^^ ((p.2 ^^^ p.1) <<< 14) := rfl

/-- The second word of the stepped state. -/
theorem stepState_snd (p : Pair) : (stepState p).2 = rotl64 (p.2 ^^^ p.1) 36 := rfl

/-- The output is the sum of the words before the step. -/
@[simp] theorem stepOutput_eq (p : Pair) : stepOutput p = p.1 + p.2 := rfl

theorem stepF_eq (p : Pair) : stepF p = (stepState p, stepOutput p) := rfl

/-! ## Xor of states -/

@[simp] theorem pairXor_fst (p q : Pair) : (pairXor p q).1 = p.1 ^^^ q.1 := rfl

@[simp] theorem pairXor_snd (p q : Pair) : (pairXor p q).2 = p.2 ^^^ q.2 := rfl

@[simp] theorem pairXor_zero (p : Pair) : pairXor p (0#64, 0#64) = p := by
  simp [pairXor]

@[simp] theorem zero_pairXor (p : Pair) : pairXor (0#64, 0#64) p = p := by
  simp [pairXor]

@[simp] theorem pairXor_self (p : Pair) : pairXor p p = (0#64, 0#64) := by
  simp [pairXor]

theorem pairXor_comm (p q : Pair) : pairXor p q = pairXor q p := by
  simp [pairXor, BitVec.xor_comm]

theorem pairXor_assoc (p q r : Pair) : pairXor (pairXor p q) r = pairXor p (pairXor q r) := by
  simp [pairXor, BitVec.xor_assoc]

/-! ## The jump loop -/

@[simp] theorem jumpLoop_nil (acc c : Pair) : jumpLoop [] acc c = acc := rfl

@[simp] theorem jumpLoop_true (bs : List Bool) (acc c : Pair) :
    jumpLoop (true :: bs) acc c = jumpLoop bs (pairXor acc c) (stepState c) := rfl

@[simp] theorem jumpLoop_false (bs : List Bool) (acc c : Pair) :
    jumpLoop (false :: bs) acc c = jumpLoop bs acc (stepState c) := rfl

/-- What the loop starts from only adds to what it gathers from nothing. -/
theorem jumpLoop_acc (bs : List Bool) (acc c : Pair) :
    jumpLoop bs acc c = pairXor acc (jumpLoop bs (0#64, 0#64) c) := by
  induction bs generalizing acc c with
  | nil => simp
  | cons b bs ih =>
    cases b
    · rw [jumpLoop_false, jumpLoop_false, ih]
    · rw [jumpLoop_true, jumpLoop_true, ih, ih (pairXor (0#64, 0#64) c), zero_pairXor, pairXor_assoc]

theorem jumpF_eq (p : Pair) : jumpF p = jumpLoop jumpBits (0#64, 0#64) p := rfl

/-! ## The state mixer -/

theorem seedF_eq (x : Word) : seedF x = jumpF (x, splitMix x) := rfl

theorem splitMix_eq (x : Word) : splitMix x = splitMixWith config x := rfl

end Sys2Proof.Machine
end

