-- ==== Sys2Proof/Laws/State.lean ====
section
/-! SUPPORT. What each update of the state does to each field, one lemma a field, so that no proof unfolds an update. -/

namespace Sys2Proof.Machine

/-! ## writeGen -/

@[simp] theorem State.writeGen_s0 (s : State) (p : Pair) : (s.writeGen p).s0 = p.1 := rfl
@[simp] theorem State.writeGen_s1 (s : State) (p : Pair) : (s.writeGen p).s1 = p.2 := rfl
@[simp] theorem State.writeGen_valid (s : State) (p : Pair) : (s.writeGen p).valid = s.valid := rfl
@[simp] theorem State.writeGen_fault (s : State) (p : Pair) : (s.writeGen p).fault = s.fault := rfl
@[simp] theorem State.writeGen_fcode (s : State) (p : Pair) : (s.writeGen p).fcode = s.fcode := rfl
@[simp] theorem State.writeGen_received (s : State) (p : Pair) : (s.writeGen p).received = s.received := rfl
@[simp] theorem State.writeGen_pending (s : State) (p : Pair) : (s.writeGen p).pending = s.pending := rfl
@[simp] theorem State.writeGen_delivered (s : State) (p : Pair) : (s.writeGen p).delivered = s.delivered := rfl
@[simp] theorem State.writeGen_host (s : State) (p : Pair) : (s.writeGen p).host = s.host := rfl
@[simp] theorem State.writeGen_drawIndex (s : State) (p : Pair) : (s.writeGen p).drawIndex = s.drawIndex := rfl
@[simp] theorem State.writeGen_gen (s : State) (p : Pair) : (s.writeGen p).gen = p := rfl

/-! ## setValid -/

@[simp] theorem State.setValid_s0 (s : State) : (s.setValid).s0 = s.s0 := rfl
@[simp] theorem State.setValid_s1 (s : State) : (s.setValid).s1 = s.s1 := rfl
@[simp] theorem State.setValid_valid (s : State) : (s.setValid).valid = true := rfl
@[simp] theorem State.setValid_fault (s : State) : (s.setValid).fault = s.fault := rfl
@[simp] theorem State.setValid_fcode (s : State) : (s.setValid).fcode = s.fcode := rfl
@[simp] theorem State.setValid_received (s : State) : (s.setValid).received = s.received := rfl
@[simp] theorem State.setValid_pending (s : State) : (s.setValid).pending = s.pending := rfl
@[simp] theorem State.setValid_delivered (s : State) : (s.setValid).delivered = s.delivered := rfl
@[simp] theorem State.setValid_host (s : State) : (s.setValid).host = s.host := rfl
@[simp] theorem State.setValid_drawIndex (s : State) : (s.setValid).drawIndex = s.drawIndex := rfl
@[simp] theorem State.setValid_gen (s : State) : (s.setValid).gen = s.gen := rfl

/-! ## recordFault -/

@[simp] theorem State.recordFault_s0 (s : State) (c : FaultCode) : (s.recordFault c).s0 = s.s0 := rfl
@[simp] theorem State.recordFault_s1 (s : State) (c : FaultCode) : (s.recordFault c).s1 = s.s1 := rfl
@[simp] theorem State.recordFault_valid (s : State) (c : FaultCode) : (s.recordFault c).valid = s.valid := rfl
@[simp] theorem State.recordFault_fault (s : State) (c : FaultCode) : (s.recordFault c).fault = true := rfl
@[simp] theorem State.recordFault_fcode (s : State) (c : FaultCode) : (s.recordFault c).fcode = (if s.fault then s.fcode else c.code) := rfl
@[simp] theorem State.recordFault_received (s : State) (c : FaultCode) : (s.recordFault c).received = s.received := rfl
@[simp] theorem State.recordFault_pending (s : State) (c : FaultCode) : (s.recordFault c).pending = s.pending := rfl
@[simp] theorem State.recordFault_delivered (s : State) (c : FaultCode) : (s.recordFault c).delivered = s.delivered := rfl
@[simp] theorem State.recordFault_host (s : State) (c : FaultCode) : (s.recordFault c).host = s.host := rfl
@[simp] theorem State.recordFault_drawIndex (s : State) (c : FaultCode) : (s.recordFault c).drawIndex = s.drawIndex := rfl
@[simp] theorem State.recordFault_gen (s : State) (c : FaultCode) : (s.recordFault c).gen = s.gen := rfl

/-! ## respond -/

@[simp] theorem State.respond_s0 (s : State) (r : Response) : (s.respond r).s0 = s.s0 := rfl
@[simp] theorem State.respond_s1 (s : State) (r : Response) : (s.respond r).s1 = s.s1 := rfl
@[simp] theorem State.respond_valid (s : State) (r : Response) : (s.respond r).valid = s.valid := rfl
@[simp] theorem State.respond_fault (s : State) (r : Response) : (s.respond r).fault = s.fault := rfl
@[simp] theorem State.respond_fcode (s : State) (r : Response) : (s.respond r).fcode = s.fcode := rfl
@[simp] theorem State.respond_received (s : State) (r : Response) : (s.respond r).received = s.received := rfl
@[simp] theorem State.respond_pending (s : State) (r : Response) : (s.respond r).pending = some r := rfl
@[simp] theorem State.respond_delivered (s : State) (r : Response) : (s.respond r).delivered = s.delivered := rfl
@[simp] theorem State.respond_host (s : State) (r : Response) : (s.respond r).host = s.host := rfl
@[simp] theorem State.respond_drawIndex (s : State) (r : Response) : (s.respond r).drawIndex = s.drawIndex := rfl
@[simp] theorem State.respond_gen (s : State) (r : Response) : (s.respond r).gen = s.gen := rfl

/-! ## raiseFault -/

@[simp] theorem raiseFault_s0 (s : State) (c : FaultCode) : (raiseFault c s).s0 = s.s0 := rfl
@[simp] theorem raiseFault_s1 (s : State) (c : FaultCode) : (raiseFault c s).s1 = s.s1 := rfl
@[simp] theorem raiseFault_valid (s : State) (c : FaultCode) : (raiseFault c s).valid = s.valid := rfl
@[simp] theorem raiseFault_fault (s : State) (c : FaultCode) : (raiseFault c s).fault = true := rfl
@[simp] theorem raiseFault_fcode (s : State) (c : FaultCode) : (raiseFault c s).fcode = (if s.fault then s.fcode else c.code) := rfl
@[simp] theorem raiseFault_received (s : State) (c : FaultCode) : (raiseFault c s).received = s.received := rfl
@[simp] theorem raiseFault_pending (s : State) (c : FaultCode) : (raiseFault c s).pending = some .err := rfl
@[simp] theorem raiseFault_delivered (s : State) (c : FaultCode) : (raiseFault c s).delivered = s.delivered := rfl
@[simp] theorem raiseFault_host (s : State) (c : FaultCode) : (raiseFault c s).host = s.host := rfl
@[simp] theorem raiseFault_drawIndex (s : State) (c : FaultCode) : (raiseFault c s).drawIndex = s.drawIndex := rfl
@[simp] theorem raiseFault_gen (s : State) (c : FaultCode) : (raiseFault c s).gen = s.gen := rfl

/-! ## deliver -/

@[simp] theorem State.deliver_s0 (s : State) : (s.deliver).s0 = s.s0 := rfl
@[simp] theorem State.deliver_s1 (s : State) : (s.deliver).s1 = s.s1 := rfl
@[simp] theorem State.deliver_valid (s : State) : (s.deliver).valid = s.valid := rfl
@[simp] theorem State.deliver_fault (s : State) : (s.deliver).fault = s.fault := rfl
@[simp] theorem State.deliver_fcode (s : State) : (s.deliver).fcode = s.fcode := rfl
@[simp] theorem State.deliver_received (s : State) : (s.deliver).received = s.received := rfl
@[simp] theorem State.deliver_pending (s : State) : (s.deliver).pending = none := rfl
@[simp] theorem State.deliver_delivered (s : State) : (s.deliver).delivered = s.delivered ++ s.pending.toList := rfl
@[simp] theorem State.deliver_host (s : State) : (s.deliver).host = s.host := rfl
@[simp] theorem State.deliver_drawIndex (s : State) : (s.deliver).drawIndex = s.drawIndex := rfl
@[simp] theorem State.deliver_gen (s : State) : (s.deliver).gen = s.gen := rfl

/-! ## receive -/

@[simp] theorem State.receive_s0 (s : State) (w : Word) : (s.receive w).s0 = s.s0 := rfl
@[simp] theorem State.receive_s1 (s : State) (w : Word) : (s.receive w).s1 = s.s1 := rfl
@[simp] theorem State.receive_valid (s : State) (w : Word) : (s.receive w).valid = s.valid := rfl
@[simp] theorem State.receive_fault (s : State) (w : Word) : (s.receive w).fault = s.fault := rfl
@[simp] theorem State.receive_fcode (s : State) (w : Word) : (s.receive w).fcode = s.fcode := rfl
@[simp] theorem State.receive_received (s : State) (w : Word) : (s.receive w).received = s.received ++ [w] := rfl
@[simp] theorem State.receive_pending (s : State) (w : Word) : (s.receive w).pending = s.pending := rfl
@[simp] theorem State.receive_delivered (s : State) (w : Word) : (s.receive w).delivered = s.delivered := rfl
@[simp] theorem State.receive_host (s : State) (w : Word) : (s.receive w).host = s.host := rfl
@[simp] theorem State.receive_drawIndex (s : State) (w : Word) : (s.receive w).drawIndex = s.drawIndex := rfl
@[simp] theorem State.receive_gen (s : State) (w : Word) : (s.receive w).gen = s.gen := rfl

/-! ## hostDone -/

@[simp] theorem State.hostDone_s0 (s : State) : (s.hostDone).s0 = s.s0 := rfl
@[simp] theorem State.hostDone_s1 (s : State) : (s.hostDone).s1 = s.s1 := rfl
@[simp] theorem State.hostDone_valid (s : State) : (s.hostDone).valid = s.valid := rfl
@[simp] theorem State.hostDone_fault (s : State) : (s.hostDone).fault = s.fault := rfl
@[simp] theorem State.hostDone_fcode (s : State) : (s.hostDone).fcode = s.fcode := rfl
@[simp] theorem State.hostDone_received (s : State) : (s.hostDone).received = s.received := rfl
@[simp] theorem State.hostDone_pending (s : State) : (s.hostDone).pending = s.pending := rfl
@[simp] theorem State.hostDone_delivered (s : State) : (s.hostDone).delivered = s.delivered := rfl
@[simp] theorem State.hostDone_host (s : State) : (s.hostDone).host = s.host.tail := rfl
@[simp] theorem State.hostDone_drawIndex (s : State) : (s.hostDone).drawIndex = s.drawIndex := rfl
@[simp] theorem State.hostDone_gen (s : State) : (s.hostDone).gen = s.gen := rfl

/-! ## assertReset -/

@[simp] theorem State.assertReset_s0 (s : State) : (s.assertReset).s0 = Config.unspecifiedS0 s.drawIndex := rfl
@[simp] theorem State.assertReset_s1 (s : State) : (s.assertReset).s1 = Config.unspecifiedS1 s.drawIndex := rfl
@[simp] theorem State.assertReset_valid (s : State) : (s.assertReset).valid = false := rfl
@[simp] theorem State.assertReset_fault (s : State) : (s.assertReset).fault = false := rfl
@[simp] theorem State.assertReset_fcode (s : State) : (s.assertReset).fcode = 0 := rfl
@[simp] theorem State.assertReset_received (s : State) : (s.assertReset).received = [] := rfl
@[simp] theorem State.assertReset_pending (s : State) : (s.assertReset).pending = none := rfl
@[simp] theorem State.assertReset_delivered (s : State) : (s.assertReset).delivered = s.delivered := rfl
@[simp] theorem State.assertReset_host (s : State) : (s.assertReset).host = s.host := rfl
@[simp] theorem State.assertReset_drawIndex (s : State) : (s.assertReset).drawIndex = s.drawIndex + 1 := rfl
@[simp] theorem State.assertReset_gen (s : State) : (s.assertReset).gen = (Config.unspecifiedS0 s.drawIndex, Config.unspecifiedS1 s.drawIndex) := rfl

/-! ## Reading the pair back -/

@[simp] theorem State.gen_fst (s : State) : s.gen.1 = s.s0 := rfl
@[simp] theorem State.gen_snd (s : State) : s.gen.2 = s.s1 := rfl

@[simp] theorem State.writeGen_self (s : State) : s.writeGen s.gen = s := rfl

end Sys2Proof.Machine
end

