-- ==== Sys2Proof/Laws/Ops.lean ====
section
/-! SUPPORT. What each meaning, the host's turn and a step can answer, said once: inversion lemmas that later proofs cite
instead of unfolding. -/

namespace Sys2Proof.Machine

open Host (Outcome)

/-! ## The meanings -/

theorem execSeed_cases {x : Word} {s t : State} (h : execSeed x s = .next t) :
    t = ((s.writeGen (seedF x)).setValid).respond (.ok []) := by
  simpa [execSeed] using h.symm

theorem execNext_cases {s t : State} (h : execNext s = .next t) :
    (s.valid = true ∧ t = (s.writeGen (stepState s.gen)).respond (.ok [stepOutput s.gen])) ∨
      (s.valid = false ∧ t = raiseFault .unseeded s) := by
  cases hv : s.valid
  · exact .inr ⟨rfl, by simpa [execNext, hv] using h.symm⟩
  · exact .inl ⟨rfl, by simpa [execNext, hv] using h.symm⟩

theorem execJump_cases {s t : State} (h : execJump s = .next t) :
    (s.valid = true ∧ t = (s.writeGen (jumpF s.gen)).respond (.ok [])) ∨
      (s.valid = false ∧ t = raiseFault .unseeded s) := by
  cases hv : s.valid
  · exact .inr ⟨rfl, by simpa [execJump, hv] using h.symm⟩
  · exact .inl ⟨rfl, by simpa [execJump, hv] using h.symm⟩

theorem execRdstate_cases {s t : State} (h : execRdstate s = .next t) :
    (s.valid = true ∧ t = s.respond (.ok [s.s0, s.s1])) ∨
      (s.valid = false ∧ t = raiseFault .unseeded s) := by
  cases hv : s.valid
  · exact .inr ⟨rfl, by simpa [execRdstate, hv] using h.symm⟩
  · exact .inl ⟨rfl, by simpa [execRdstate, hv] using h.symm⟩

theorem bothZero_eq_true {a b : Word} : bothZero a b = true ↔ a = 0 ∧ b = 0 := by
  simp [bothZero]

theorem execLdstate_cases {a b : Word} {s t : State} (h : execLdstate a b s = .next t) :
    ((a, b) ≠ (0, 0) ∧ t = ((s.writeGen (a, b)).setValid).respond (.ok [])) ∨
      (a = 0 ∧ b = 0 ∧ t = raiseFault .zeroState s) := by
  cases hz : bothZero a b
  · refine .inl ⟨?_, by simpa [execLdstate, hz] using h.symm⟩
    rintro heq
    rw [Prod.mk.injEq] at heq
    rw [bothZero_eq_true.mpr heq] at hz
    exact Bool.noConfusion hz
  · obtain ⟨ha, hb⟩ := bothZero_eq_true.mp hz
    exact .inr ⟨ha, hb, by simpa [execLdstate, hz] using h.symm⟩

theorem execRdstatus_cases {s t : State} (h : execRdstatus s = .next t) :
    t = s.respond (.ok [statusWord s]) := by
  simpa [execRdstatus] using h.symm

theorem execIllegal_cases {w : Word} {s t : State} (h : execIllegal w s = .next t) :
    t = raiseFault .illegalCommand s := by
  simpa [execIllegal] using h.symm

/-! ## The host's turn -/

/-- Everything the host's turn can do. -/
theorem hostTurn_cases (s : State) :
    s.hostTurn = s ∨
      (∃ w es, s.host = .send w :: es ∧ s.pending = none ∧ s.hostTurn = s.hostDone.receive w) ∨
      (∃ es, s.host = .accept :: es ∧ s.hostTurn = s.hostDone.deliver) ∨
      (s.resetAsserted = true ∧ s.hostTurn = s.hostDone.assertReset) := by
  unfold State.hostTurn State.resetAsserted
  cases hh : s.host with
  | nil => exact .inl rfl
  | cons e es =>
    cases e with
    | send w =>
      cases hp : s.pending with
      | none => exact .inr (.inl ⟨w, es, rfl, rfl, by simp⟩)
      | some r => exact .inl (by simp)
    | accept => exact .inr (.inr (.inl ⟨es, rfl, rfl⟩))
    | reset => exact .inr (.inr (.inr ⟨rfl, rfl⟩))
    | powerCycle => exact .inr (.inr (.inr ⟨rfl, rfl⟩))

/-! ## A step -/

/-- Everything a step can be: a reset, the host's turn, a legal command or an illegal word. -/
theorem step_cases (s : State) :
    (s.resetAsserted = true ∧ step s = .next s.hostTurn) ∨
      (s.resetAsserted = false ∧ (s.pending.isSome ∨ decode s.received = .incomplete) ∧ step s = .next s.hostTurn) ∨
      (∃ i rest, s.resetAsserted = false ∧ s.pending = none ∧ decode s.received = .command i rest ∧
        step s = exec i { s with received := rest }) ∨
      (∃ w rest, s.resetAsserted = false ∧ s.pending = none ∧ decode s.received = .illegal w rest ∧
        step s = execIllegal w { s with received := rest }) := by
  unfold step
  cases hr : s.resetAsserted with
  | true => exact .inl ⟨rfl, rfl⟩
  | false =>
    cases hp : s.pending with
    | some r => exact .inr (.inl ⟨rfl, .inl rfl, rfl⟩)
    | none =>
      cases hd : decode s.received with
      | incomplete => exact .inr (.inl ⟨rfl, .inr rfl, rfl⟩)
      | command i rest => exact .inr (.inr (.inl ⟨i, rest, rfl, rfl, rfl, rfl⟩))
      | illegal w rest => exact .inr (.inr (.inr ⟨w, rest, rfl, rfl, rfl, rfl⟩))

end Sys2Proof.Machine
end

