-- ==== Sys2Proof/Laws/PerInstr.lean ====
section
/-! SUPPORT. Statements about every instruction as syntax, one lemma a constructor. -/

namespace Sys2Proof.Laws.Framing

/-- The words of an instruction are one well-formed transaction that begins with its opcode's command word
(30_encoding.md R60, R65). -/
def Statement (i : Instr) : Prop :=
  (encode i).head? = some i.opcode.commandWord ∧ (encode i).length = 1 + i.opcode.nops ∧
    wellFormedTransaction (encode i) = true

theorem seed (seed : Word) : Statement (.seed seed) := ⟨rfl, rfl, by
  simp only [wellFormedTransaction, encode, length_operandWords, Bool.and_eq_true, decide_eq_true_eq]
  exact ⟨(by decide : legalCommandWord Opcode.seed.commandWord = true),
    (by decide : Opcode.seed.nops = operandCountOfWord Opcode.seed.commandWord)⟩⟩

theorem next : Statement .next := ⟨rfl, rfl, rfl⟩

theorem jump : Statement .jump := ⟨rfl, rfl, rfl⟩

theorem rdstate : Statement .rdstate := ⟨rfl, rfl, rfl⟩

theorem ldstate (s0 s1 : Word) : Statement (.ldstate s0 s1) := ⟨rfl, rfl, by
  simp only [wellFormedTransaction, encode, length_operandWords, Bool.and_eq_true, decide_eq_true_eq]
  exact ⟨(by decide : legalCommandWord Opcode.ldstate.commandWord = true),
    (by decide : Opcode.ldstate.nops = operandCountOfWord Opcode.ldstate.commandWord)⟩⟩

theorem rdstatus : Statement .rdstatus := ⟨rfl, rfl, rfl⟩

end Sys2Proof.Laws.Framing
end

