-- ==== Sys2Proof/Tests/Slice0.lean ====
section
/-! SUPPORT. The model's own tests.  Expected values are the spec's: the encodings of 30_encoding.md R64 written out, and
the vectors of 95_test_vectors.md (named V-…), which the spec derived by computation.  Then one witness for the
hypotheses of each obligation. -/

namespace Sys2Proof.Machine.Tests

open Sys2Proof Sys2Proof.Machine

/-- A small state: no words held, nothing outstanding, a silent host. -/
def small (p : Pair) (valid fault : Bool) (fcode : Byte) : State where
  s0 := p.1
  s1 := p.2
  valid := valid
  fault := fault
  fcode := fcode
  received := []
  pending := none
  delivered := []
  host := []
  drawIndex := 1

/-- The state after, where there is one. -/
def after : Host.Outcome State Fault Refusal → Option State
  | .next t => some t
  | .fault _ => none
  | .refused _ => none

/-- A valid state, an unseeded one, and one that has faulted. -/
def seeded : State := small (1, 2) true false 0
def unseeded : State := small (1, 2) false false 0
def faulted : State := small (1, 2) true true 3

/-! ## WellFormed: a term each check refuses -/

theorem test_wf_no_words : wellFormedTransaction [] = false := by decide
theorem test_wf_opcode_zero : wellFormedTransaction [0x0] = false := by decide
theorem test_wf_opcode_seven : wellFormedTransaction [0x7] = false := by decide
theorem test_wf_reserved_bit : wellFormedTransaction [0x102] = false := by decide
theorem test_wf_operand_missing : wellFormedTransaction [0x5, 0x1] = false := by decide
theorem test_wf_operand_too_many : wellFormedTransaction [0x2, 0x1] = false := by decide
theorem test_wf_ldstate : wellFormedTransaction [0x5, 0x1, 0x2] = true := by decide
theorem test_wf_number_out_of_range : AsmLine.wellFormed (.seed 18446744073709551616) = false := by decide
theorem test_wf_second_number_out_of_range : AsmLine.wellFormed (.ldstate 0 18446744073709551616) = false := by decide
theorem test_wf_number_in_range : AsmLine.wellFormed (.word 18446744073709551615) = true := by decide

/-! ## Decode: words written out from 30_encoding.md R61, R64 -/

/-- V-DEC-1. -/
theorem test_decode_seed : decode [0x0000000000000001, 0x000000000000002a] = .command (.seed 42) [] := by decide
/-- V-DEC-2; the word after it is left. -/
theorem test_decode_next : decode [0x0000000000000002, 0x3] = .command .next [0x3] := by decide
theorem test_decode_jump : decode [0x0000000000000003] = .command .jump [] := by decide
theorem test_decode_rdstate : decode [0x0000000000000004] = .command .rdstate [] := by decide
/-- V-DEC-3. -/
theorem test_decode_ldstate : decode [0x0000000000000005, 0x1, 0x2] = .command (.ldstate 1 2) [] := by decide
theorem test_decode_rdstatus : decode [0x0000000000000006] = .command .rdstatus [] := by decide
/-- V-DEC-7: bit 8 set, OPC = 0x02. -/
theorem test_decode_reserved_bit : decode [0x0000000000000102] = .illegal 0x102 [] := by decide
/-- V-DEC-8: the word after an illegal one is a command word. -/
theorem test_decode_illegal_length : decode [0x8000000000000001, 0x2a] = .illegal 0x8000000000000001 [0x2a] := by decide
/-- V-DEC-9. -/
theorem test_decode_incomplete : decode [0x0000000000000001] = .incomplete := by decide
theorem test_encode_seed : encode (.seed 0x2a) = [0x0000000000000001, 0x2a] := by decide
theorem test_encode_ldstate : encode (.ldstate 1 2) = [0x0000000000000005, 1, 2] := by decide
theorem test_table_word_rdstatus : decodeTableWord 64 6 = some .rdstatus := by decide
theorem test_table_word_ldstate : decodeTableWord 64 5 = some (.ldstate 0 0) := by decide

/-! ## The pure functions -/

/-- V-ROT-5. -/
theorem test_rotl : rotl64 0x0123456789abcdef 36 = 0x9abcdef012345678 := by decide
/-- V-SM-1. -/
theorem test_split_mix_zero : splitMix 0 = 0xe220a8397b1dcdaf := by decide
/-- V-SM-5: the addition wraps. -/
theorem test_split_mix_wraps : splitMix 0xffffffffffffffff = 0xe4d971771b652c20 := by decide
/-- V-JUMP-5. -/
theorem test_jump_function : jumpF (0x0123456789abcdef, 0xfedcba9876543210) = (0xbfda63b357fc9180, 0x3e616852aef48283) := by
  decide +kernel
/-- V-STEP-7. -/
theorem test_step_function : stepF (0x0123456789abcdef, 0xfedcba9876543210) =
    ((0xf78091a2b3c4ea19, 0xffffffffffffffff), 0xffffffffffffffff) := by decide

/-! ## One step of each command -/

/-- V-SEED-1. -/
theorem test_seed : (after (exec (.seed 0) unseeded)).map State.gen = some (0x46b079f2a5689271, 0x1ab0d6fd5640ba82) := by
  decide +kernel
/-- V-SEED-6: SM of the seed is 0. -/
theorem test_seed_mixer_zero : (after (exec (.seed 0x61c8864680b583eb) seeded)).map State.gen =
    some (0xf26a163e72168bd5, 0xd696340b0d8a1cd3) := by decide +kernel
/-- V-STEP-5: the sum wraps to 0. -/
theorem test_next : after (exec .next (small (0xffffffffffffffff, 1) true false 0)) =
    some { small (0xffffffffffff8001, 0xffffffefffffffff) true false 0 with pending := some (.ok [0]) } := by decide
/-- V-STEP-9. -/
theorem test_next_unseeded : after (exec .next unseeded) =
    some { small (1, 2) false true 2 with pending := some .err } := by decide
/-- V-JUMP-3. -/
theorem test_jump : (after (exec .jump seeded)).map State.gen = some (0x814146b67b285f30, 0x7f6ff236623b4e25) := by
  decide +kernel
/-- V-JUMP-8. -/
theorem test_jump_unseeded : after (exec .jump unseeded) =
    some { small (1, 2) false true 2 with pending := some .err } := by decide
/-- V-ACC-2. -/
theorem test_rdstate : after (exec .rdstate seeded) = some { seeded with pending := some (.ok [1, 2]) } := by decide
/-- V-ACC-1. -/
theorem test_rdstate_unseeded : after (exec .rdstate unseeded) =
    some { small (1, 2) false true 2 with pending := some .err } := by decide
/-- V-ACC-4. -/
theorem test_ldstate : after (exec (.ldstate 0 5) unseeded) =
    some { small (0, 5) true false 0 with pending := some (.ok []) } := by decide
/-- V-ACC-3, after an earlier fault of code 2: FCODE keeps the first (program P3). -/
theorem test_ldstate_zero : after (exec (.ldstate 0 0) (small (1, 2) true true 2)) =
    some { small (1, 2) true true 2 with pending := some .err } := by decide
/-- V-ACC-8. -/
theorem test_rdstatus : after (exec .rdstatus (small (1, 2) true true 1)) =
    some { small (1, 2) true true 1 with pending := some (.ok [0x103]) } := by decide
/-- V-ACC-9. -/
theorem test_rdstatus_unseeded : after (exec .rdstatus (small (1, 2) false true 2)) =
    some { small (1, 2) false true 2 with pending := some (.ok [0x202]) } := by decide

/-! ## The step around them -/

/-- P5: an illegal word faults and the word after it stays. -/
theorem test_step_illegal : after (step { unseeded with received := [0x102, 0x7] }) =
    some { small (1, 2) false true 1 with received := [0x7], pending := some .err } := by decide
/-- A word received completes the command; it has not executed yet. -/
theorem test_step_receives : after (step { seeded with received := [0x5, 0x1], host := [.send 0x2] }) =
    some { seeded with received := [0x5, 0x1, 0x2] } := by decide
/-- No word is taken while a response is outstanding (R47). -/
theorem test_step_busy : after (step { seeded with pending := some .err, host := [.send 0x2] }) =
    some { seeded with pending := some .err, host := [.send 0x2] } := by decide
/-- A reset comes before a complete command (R168, R191). -/
theorem test_step_reset : (after (step { faulted with received := [0x3], host := [.reset] })).map
    (fun t => (t.valid, t.fault, t.fcode, t.received, t.pending)) = some (false, false, 0, [], none) := by decide
/-- A table word placed at reset runs next. -/
theorem test_fetch_word : (after (step (State.reset.withFetchWord 64 2))).map State.pending = some (some .err) := by decide
theorem test_fetch_word_rdstatus : (after (step (State.reset.withFetchWord 64 6))).map State.pending =
    some (some (.ok [0])) := by decide

/-! ## The assembler (30_encoding.md R69, R70) -/

/-- "mnemonics are case insensitive", a comment, a comma. -/
theorem test_asm_ldstate : (parseLine ['L', 'd', 'S', 'T', 'A', 'T', 'E', ' ', '1', ',', ' ', '0', 'x', '2', ';', 'c']).bind
    assembleLine = some [0x5, 0x1, 0x2] := by decide
theorem test_asm_fork : assembleText ['F', 'O', 'R', 'K', '\n', '.', 'w', 'o', 'r', 'd', ' ', '7'] = some [0x4, 0x3, 0x7] := by
  decide
theorem test_asm_error : parseLine ['N', 'E', 'X', 'T', ' ', '1'] = none := by decide

/-! ## The host's checkpoints (20_memory.md R41): the digits of a word written out by hand -/

theorem test_bytes_little_endian : inByteOrder .littleEndian (bytesOfWord 0x0123456789abcdef) =
    [0xef, 0xcd, 0xab, 0x89, 0x67, 0x45, 0x23, 0x01] := by decide
theorem test_checkpoint_read_back : checkpointPair .bigEndian
    [0x01, 0x23, 0x45, 0x67, 0x89, 0xab, 0xcd, 0xef, 0, 0, 0, 0, 0, 0, 0, 2] = (0x0123456789abcdef, 2) := by decide

/-! ## Witnesses: each obligation's hypotheses are met -/

theorem test_witness_commands_well_formed :
    ∀ c ∈ [Command.legal (.ldstate 0 0), .illegal 0x0, .illegal 0x102, .legal .next], c.wellFormed = true := by decide

theorem test_witness_illegal_word :
    let s := { seeded with received := [0xff, 0x2] }
    s.resetAsserted = false ∧ s.pending = none ∧ s.received = 0xff :: [0x2] ∧ decode (0xff :: [0x2]) = .illegal 0xff [0x2] := by
  decide

theorem test_witness_illegal_word_boundaries :
    decode [0x07] = .illegal 0x07 [] ∧ decode [0x00] = .illegal 0x00 [] ∧ decode [0x101] = .illegal 0x101 [] ∧
      decode [0x06] ≠ .illegal 0x06 [] := by decide

theorem test_witness_step_runs :
    let s := { seeded with received := [0x5, 0x1, 0x2] }
    s.resetAsserted = false ∧ s.pending = none ∧ decode s.received = .command (.ldstate 1 2) [] := by decide

theorem test_witness_held_silent_host :
    let s := { seeded with received := [0x1] }
    s.pending = none ∧ decode s.received = .incomplete ∧ s.host = [] := by decide

theorem test_witness_held_word_sent :
    let s := { seeded with received := [0x5, 0x1], host := [.send 0x2] }
    s.pending = none ∧ decode s.received = .incomplete ∧ s.host = .send 0x2 :: [] := by decide

theorem test_witness_busy_accept :
    let s := { seeded with pending := some .err, host := [.accept] }
    s.pending = some .err ∧ s.resetAsserted = false ∧ s.host = .accept :: [] := by decide

theorem test_witness_busy_send :
    let s := { seeded with pending := some .err, host := [.send 0x2] }
    s.pending = some .err ∧ s.resetAsserted = false ∧ ∀ es, s.host ≠ .accept :: es := by
  refine ⟨rfl, rfl, ?_⟩
  intro es h
  cases h

theorem test_witness_valid_and_not : seeded.valid = true ∧ unseeded.valid = false := by decide

/-- The boundaries of LDSTATE's check (R141: only the pair (0, 0) is refused). -/
theorem test_witness_ldstate_operands :
    ¬((0 : Word) = 0 ∧ (5 : Word) = 0) ∧ ¬((7 : Word) = 0 ∧ (0 : Word) = 0) := by decide

theorem test_witness_command_completes : ∃ t, (Command.legal .next).exec seeded = .next t := ⟨_, rfl⟩

theorem test_witness_faulting_command :
    ∃ t, (Command.illegal 0x0).exec faulted = .next t ∧ t.pending = some .err := ⟨_, rfl, rfl⟩

theorem test_witness_rotation_amounts : 1 ≤ 1 ∧ 1 ≤ 63 ∧ 1 ≤ 63 ∧ 63 ≤ 63 := by decide

theorem test_witness_sum_wraps :
    2 ^ 64 ≤ (0xffffffffffffffff : Word).toNat + (0x0000000000000001 : Word).toNat := by decide

theorem test_witness_bit_positions : 0 < 64 ∧ 63 < 64 ∧ 127 < 128 := by decide

theorem test_witness_non_zero_states : ((0, 1) : Pair) ≠ (0, 0) ∧ ((1, 0) : Pair) ≠ (0, 0) := by decide

theorem test_witness_period_range : 0 < 1 ∧ 1 < 2 ^ 128 - 1 ∧ 0 < 2 ^ 128 - 2 ∧ 2 ^ 128 - 2 < 2 ^ 128 - 1 := by decide

theorem test_witness_streams_first_to_last_but_one :
    0 < 2 ^ 64 - 2 ∧ 2 ^ 64 - 1 < 2 ^ 64 ∧ (2 ^ 64 - 2 ≤ 2 ^ 64 - 2 ∨ (1 ≤ 0 ∧ 2 ^ 64 - 2 ≤ 2 ^ 64 - 1)) := by decide

theorem test_witness_streams_second_to_last :
    1 < 2 ^ 64 - 1 ∧ 0 < 2 ^ 64 ∧ (2 ^ 64 - 1 ≤ 2 ^ 64 - 2 ∨ (1 ≤ 1 ∧ 2 ^ 64 - 1 ≤ 2 ^ 64 - 1)) := by decide

theorem test_witness_shift_amounts :
    let c : Config := { smSh1 := 1, smSh2 := 63, smSh3 := 31 }
    1 ≤ c.smSh1 ∧ c.smSh1 ≤ 63 ∧ 1 ≤ c.smSh2 ∧ c.smSh2 ≤ 63 ∧ 1 ≤ c.smSh3 ∧ c.smSh3 ≤ 63 := by decide

theorem test_witness_causes :
    unseeded.fault = false ∧ unseeded.valid = false ∧
      (Command.legal .jump = .legal .next ∨ Command.legal .jump = .legal .jump ∨ Command.legal .jump = .legal .rdstate) := by
  decide

theorem test_witness_sticky_fault_kept :
    let s := { faulted with received := [0x0] }
    s.resetAsserted = false ∧ s.fault = true ∧ ∃ t, step s = .next t := ⟨rfl, rfl, _, rfl⟩

theorem test_witness_err_answered :
    let s := { faulted with received := [0x0] }
    s.resetAsserted = false ∧ s.pending = none ∧ ∃ t, step s = .next t ∧ t.pending = some .err := ⟨rfl, rfl, _, rfl, rfl⟩

theorem test_witness_fault_becomes_set :
    let s := { unseeded with received := [0x4] }
    s.resetAsserted = false ∧ s.fault = false ∧ ∃ t, step s = .next t ∧ t.fault = true := ⟨rfl, rfl, _, rfl, rfl⟩

theorem test_witness_fault_stays_clear :
    let s := { seeded with received := [0x4] }
    s.resetAsserted = false ∧ s.fault = false ∧ ∃ t, step s = .next t ∧ t.fault = false := ⟨rfl, rfl, _, rfl, rfl⟩

theorem test_witness_valid_becomes_set :
    let s := { unseeded with received := [0x5, 0x0, 0x5] }
    s.resetAsserted = false ∧ s.valid = false ∧ ∃ t, step s = .next t ∧ t.valid = true := ⟨rfl, rfl, _, rfl, rfl⟩

theorem test_witness_valid_kept :
    let s := { seeded with received := [0x5, 0x0, 0x0] }
    s.resetAsserted = false ∧ s.valid = true ∧ ∃ t, step s = .next t ∧ t.valid = true := ⟨rfl, rfl, _, rfl, rfl⟩

theorem test_witness_state_written :
    let s := { seeded with received := [0x2] }
    s.resetAsserted = false ∧ ∃ t, step s = .next t ∧ (t.s0 ≠ s.s0 ∨ t.s1 ≠ s.s1) := ⟨rfl, _, rfl, .inl (by decide)⟩

theorem test_witness_saved_state : seeded.NonZeroWhenValid ∧ seeded.valid = true := by
  refine ⟨fun _ => ?_, rfl⟩
  decide

theorem test_witness_idempotent_command :
    (∃ x, Instr.seed 3 = .seed x) ∨ (∃ a b, Instr.seed 3 = .ldstate a b) ∨ Instr.seed 3 = .rdstate ∨ Instr.seed 3 = .rdstatus :=
  .inl ⟨3, rfl⟩

theorem test_witness_reset_events :
    ({ seeded with host := [.reset] } : State).host = .reset :: [] ∧
      ({ seeded with host := [.powerCycle] } : State).host = .powerCycle :: [] ∧
      (HostEvent.powerCycle = .reset ∨ HostEvent.powerCycle = .powerCycle) := by decide

theorem test_witness_invariant_step :
    seeded.NonZeroWhenValid ∧ ∃ t, step { seeded with received := [0x2] } = .next t := by
  refine ⟨fun _ => ?_, _, rfl⟩
  decide

theorem test_witness_invariant_of_a_seeded_state :
    ({ seeded with received := [0x2] } : State).Inv ∧ ∃ t, step { seeded with received := [0x2] } = .next t :=
  ⟨{ nonZero := fun _ => by decide
     record := rfl
     framing := ⟨rfl, fun h => by cases h⟩
     err := fun h => by cases h }, _, rfl⟩

/-- Two unseeded states that hold different words. -/
theorem test_witness_same_but_unseeded :
    SameButUnseeded unseeded (small (3, 4) false false 0) ∧ unseeded.gen ≠ (small (3, 4) false false 0).gen := by
  refine ⟨⟨rfl, rfl, rfl, rfl, rfl, rfl, rfl, rfl, fun h => ?_⟩, by decide⟩
  cases h

theorem test_witness_session_start : seeded.received = [] ∧ seeded.pending = none ∧ seeded.noCommandFaulted = true := by decide

theorem test_witness_next_and_jump_only :
    ∀ c ∈ [Command.legal .jump, .legal .next], c = .legal .next ∨ c = .legal .jump := by decide

/-- Two systems that share instance 1 and differ in instance 0; instance 1 is not scheduled. -/
theorem test_witness_systems :
    ({ cores := [seeded, faulted] } : System).cores[1]? = ({ cores := [unseeded, faulted] } : System).cores[1]? ∧
      seeded ≠ unseeded ∧ 1 ∉ [0, 0] := by decide

theorem test_witness_system_sized : ({ cores := List.replicate Config.nInstances State.reset } : System).sized := by
  simp [System.sized]

theorem test_witness_mnemonic_in_mixed_case :
    ['S', 'e', 'E', 'd'].map Char.toLower = ['s', 'e', 'e', 'd'] ∧ ['J', 'u', 'm', 'P', 'N'].map Char.toLower =
      ['j', 'u', 'm', 'p', 'n'] ∧ ['s', 'K', 'i', 'p'].map Char.toLower = ['s', 'k', 'i', 'p'] := by decide

theorem test_witness_mnemonics_without_numbers :
    ['N', 'e', 'x', 't'].map Char.toLower = ['n', 'e', 'x', 't'] ∧ ['J', 'U', 'M', 'P'].map Char.toLower =
      ['j', 'u', 'm', 'p'] ∧ ['R', 'd', 's', 't', 'a', 't', 'e'].map Char.toLower = ['r', 'd', 's', 't', 'a', 't', 'e'] ∧
      ['R', 'd', 's', 't', 'a', 't', 'u', 's'].map Char.toLower = ['r', 'd', 's', 't', 'a', 't', 'u', 's'] ∧
      ['F', 'o', 'r', 'K'].map Char.toLower = ['f', 'o', 'r', 'k'] := by decide

theorem test_witness_number_texts :
    (['4', '2'] = Nat.toDigits 10 42 ∨ ['4', '2'] = '0' :: 'x' :: Nat.toDigits 16 42) ∧
      (['0', 'x', '2', 'a'] = Nat.toDigits 10 42 ∨ ['0', 'x', '2', 'a'] = '0' :: 'x' :: Nat.toDigits 16 42) ∧
      ['L', 'd', 's', 't', 'a', 't', 'e'].map Char.toLower = ['l', 'd', 's', 't', 'a', 't', 'e'] := by decide

theorem test_witness_byte_positions : 0 < 8 ∧ 7 < 8 := by decide

theorem test_witness_number_bounds :
    18446744073709551615 < 2 ^ 64 ∧ 2 ^ 64 ≤ 18446744073709551616 ∧
      (2 ^ 64 ≤ 18446744073709551616 ∨ 2 ^ 64 ≤ 0) := by decide

end Sys2Proof.Machine.Tests
end

/-! ## The step function and the jump as linear maps over GF(2) (41_step.md R100, R107; 42_jump.md R122, R124)

JUMPF is a polynomial in the step function.  Polynomials of degree below 128 are `BitVec 128`, and `polyAct` applies one
to the step function; multiplying by `x` modulo the characteristic polynomial is one more step (`polyAct_mulX`), so 64
squarings of `x`, done by evaluation, are 2^64 steps (`jumpF_eq_iterate`). -/

namespace Sys2Proof.Machine

/-! ### Rotation -/

/-- Which bit of the word each bit of the rotated word is. -/
theorem getLsbD_rotl64 (x : Word) (k : Nat) {i : Nat} (hi : i < 64) :
    (rotl64 x k).getLsbD i = if i < k then x.getLsbD (64 - k + i) else x.getLsbD (i - k) := by
  simp only [rotl64, BitVec.getLsbD_or, BitVec.getLsbD_shiftLeft, BitVec.getLsbD_ushiftRight, hi]
  split
  · next h => simp [h]
  · next h => simp [h, BitVec.getLsbD_of_ge x (64 - k + i) (by omega)]

theorem rotl64_xor (x y : Word) (k : Nat) : rotl64 (x ^^^ y) k = rotl64 x k ^^^ rotl64 y k := by
  refine BitVec.eq_of_getLsbD_eq fun i hi => ?_
  simp only [BitVec.getLsbD_xor, getLsbD_rotl64 _ _ hi]
  split <;> rfl

@[simp] theorem rotl64_zero (k : Nat) : rotl64 0#64 k = 0#64 := by
  simpa using rotl64_xor 0#64 0#64 k

/-- Rotating on by the rest of the word brings every bit back. -/
theorem rotl64_rotl64 (x : Word) {k : Nat} (hk : k ≤ 64) : rotl64 (rotl64 x k) (64 - k) = x := by
  refine BitVec.eq_of_getLsbD_eq fun i hi => ?_
  rw [getLsbD_rotl64 _ _ hi]
  split
  · next h => rw [getLsbD_rotl64 _ _ (by omega), if_neg (by omega)]; congr 1; omega
  · next h => rw [getLsbD_rotl64 _ _ (by omega), if_pos (by omega)]; congr 1; omega

theorem rotl64_injective {k : Nat} (hk : k ≤ 64) : Function.Injective (rotl64 · k) :=
  Function.LeftInverse.injective (g := (rotl64 · (64 - k))) fun x => rotl64_rotl64 x hk

/-! ### The step is linear and loses nothing -/

theorem pairXor_eq_zero {p q : Pair} : pairXor p q = (0#64, 0#64) ↔ p = q := by
  simp [pairXor, Prod.ext_iff]

@[simp] theorem stepState_zero : stepState (0#64, 0#64) = (0#64, 0#64) := by decide

theorem pairXor_pairXor_comm (p q p' q' : Pair) :
    pairXor (pairXor p q) (pairXor p' q') = pairXor (pairXor p p') (pairXor q q') := by
  ext1 <;> simp only [pairXor_fst, pairXor_snd] <;> ac_rfl

theorem stepState_pairXor (p q : Pair) : stepState (pairXor p q) = pairXor (stepState p) (stepState q) := by
  have diff : (p.2 ^^^ q.2) ^^^ (p.1 ^^^ q.1) = (p.2 ^^^ p.1) ^^^ (q.2 ^^^ q.1) := by ac_rfl
  have regroup (a a' b b' c c' : Word) :
      (a ^^^ a') ^^^ (b ^^^ b') ^^^ (c ^^^ c') = (a ^^^ b ^^^ c) ^^^ (a' ^^^ b' ^^^ c') := by ac_rfl
  ext1
  · rw [pairXor_fst, stepState_fst, stepState_fst p, stepState_fst q, pairXor_fst, pairXor_snd, diff, rotl64_xor,
      BitVec.shiftLeft_xor_distrib, regroup]
  · rw [pairXor_snd, stepState_snd, stepState_snd p, stepState_snd q, pairXor_fst, pairXor_snd, diff, rotl64_xor]

theorem stepState_injective : Function.Injective stepState := by
  intro p q h
  obtain ⟨hfst, hsnd⟩ := Prod.ext_iff.mp h
  have ht : p.2 ^^^ p.1 = q.2 ^^^ q.1 := rotl64_injective (by decide) hsnd
  rw [stepState_fst, stepState_fst, ht, BitVec.xor_left_inj, BitVec.xor_left_inj] at hfst
  have h1 : p.1 = q.1 := rotl64_injective (by decide) hfst
  rw [h1, BitVec.xor_left_inj] at ht
  exact Prod.ext h1 ht

/-! ### The jump loop is linear and commutes with the step -/

theorem jumpLoop_pairXor (bs : List Bool) (a a' c c' : Pair) :
    jumpLoop bs (pairXor a a') (pairXor c c') = pairXor (jumpLoop bs a c) (jumpLoop bs a' c') := by
  induction bs generalizing a a' c c' with
  | nil => rfl
  | cons b bs ih =>
    cases b
    · simp only [jumpLoop_false, stepState_pairXor, ih]
    · simp only [jumpLoop_true, stepState_pairXor, pairXor_pairXor_comm a a' c c', ih]

theorem jumpLoop_zero (bs : List Bool) : jumpLoop bs (0#64, 0#64) (0#64, 0#64) = (0#64, 0#64) := by
  simpa using jumpLoop_pairXor bs (0#64, 0#64) (0#64, 0#64) (0#64, 0#64) (0#64, 0#64)

theorem jumpLoop_stepState (bs : List Bool) (acc c : Pair) :
    jumpLoop bs (stepState acc) (stepState c) = stepState (jumpLoop bs acc c) := by
  induction bs generalizing acc c with
  | nil => rfl
  | cons b bs ih =>
    cases b
    · rw [jumpLoop_false, jumpLoop_false, ih]
    · rw [jumpLoop_true, jumpLoop_true, ← stepState_pairXor, ih]

theorem jumpLoop_append (bs cs : List Bool) (acc c : Pair) :
    jumpLoop (bs ++ cs) acc c = jumpLoop cs (jumpLoop bs acc c) (stepState^[bs.length] c) := by
  induction bs generalizing acc c with
  | nil => rfl
  | cons b bs ih => exact ih _ _

theorem jumpLoop_replicate_false (n : Nat) (acc c : Pair) : jumpLoop (List.replicate n false) acc c = acc := by
  induction n generalizing c with
  | zero => rfl
  | succ n ih => exact ih _

theorem jumpLoop_cons (b : Bool) (bs : List Bool) (acc c : Pair) :
    jumpLoop (b :: bs) acc c = jumpLoop bs (pairXor acc (if b then c else (0#64, 0#64))) (stepState c) := by
  cases b <;> simp

/-- The bits of a sum, at any places, gather the sum of what the bits of its parts gather. -/
theorem jumpLoop_map_xor (js : List Nat) (b b' : BitVec 128) (a a' c : Pair) :
    jumpLoop (js.map fun j => (b ^^^ b').getLsbD j) (pairXor a a') c =
      pairXor (jumpLoop (js.map fun j => b.getLsbD j) a c) (jumpLoop (js.map fun j => b'.getLsbD j) a' c) := by
  induction js generalizing a a' c with
  | nil => rfl
  | cons j js ih =>
    have hbit : (if (b ^^^ b').getLsbD j then c else (0#64, 0#64)) =
        pairXor (if b.getLsbD j then c else (0#64, 0#64)) (if b'.getLsbD j then c else (0#64, 0#64)) := by
      rw [BitVec.getLsbD_xor]
      cases b.getLsbD j <;> cases b'.getLsbD j <;> simp
    simp only [List.map_cons, jumpLoop_cons, hbit, pairXor_pairXor_comm a a', ih]

/-! ### Polynomials in the step function -/

/-- The coefficients of a polynomial of degree below 128, the constant one first. -/
def polyBits (b : BitVec 128) : List Bool :=
  (List.range 128).map fun j => b.getLsbD j

/-- A polynomial in the step function, applied to a state. -/
def polyAct (b : BitVec 128) (p : Pair) : Pair :=
  jumpLoop (polyBits b) (0#64, 0#64) p

theorem polyAct_eq (b : BitVec 128) (p : Pair) : polyAct b p = jumpLoop (polyBits b) (0#64, 0#64) p := rfl

/-- The characteristic polynomial of the step function without its leading term `x^128`; found by elimination on the
states that follow (1, 0), and checked in `polyAct_charPoly`. -/
def charPoly : BitVec 128 := 0x00653ced7f29f88a5fd66762f0e1c001

/-- Its coefficients, the leading one too. -/
def charBits : List Bool :=
  polyBits charPoly ++ [true]

/-- `x · b` modulo the characteristic polynomial. -/
def mulX (b : BitVec 128) : BitVec 128 :=
  b <<< 1 ^^^ bif b.msb then charPoly else 0#128

/-- The sum of the `x^j · c` modulo the characteristic polynomial at the set bits, gathered as `jumpLoop` gathers
states. -/
def mulLoop : List Bool → BitVec 128 → BitVec 128 → BitVec 128
  | [], acc, _ => acc
  | b :: bs, acc, c => mulLoop bs (bif b then acc ^^^ c else acc) (mulX c)

/-- `b²` modulo the characteristic polynomial. -/
def squareMod (b : BitVec 128) : BitVec 128 :=
  mulLoop (polyBits b) 0#128 b

/-- A property of 0 and of every power of two that sums keep holds of every word. -/
theorem word_xor_induction {P : Word → Prop} (zero : P 0#64) (twoPow : ∀ i < 64, P (BitVec.twoPow 64 i))
    (xor : ∀ x y, P x → P y → P (x ^^^ y)) (x : Word) : P x := by
  suffices below : ∀ n ≤ 64, ∀ x : Word, (∀ i, n ≤ i → x.getLsbD i = false) → P x from
    below 64 le_rfl x fun i hi => BitVec.getLsbD_of_ge x i hi
  intro n
  induction n with
  | zero =>
    intro _ x hx
    rwa [BitVec.eq_of_getLsbD_eq (x := x) (y := 0#64) fun i _ => by simp [hx i i.zero_le]]
  | succ n ih =>
    intro hn x hx
    cases hb : x.getLsbD n with
    | false =>
      refine ih (by omega) x fun i hi => ?_
      obtain rfl | hlt := hi.eq_or_lt
      · exact hb
      · exact hx i hlt
    | true =>
      have hrest : P (x ^^^ BitVec.twoPow 64 n) := by
        refine ih (by omega) _ fun i hi => ?_
        obtain rfl | hlt := hi.eq_or_lt
        · simp [hb, Nat.lt_of_succ_le hn]
        · simp [hx i hlt, BitVec.getLsbD_twoPow, hlt.ne]
      have h := xor _ _ hrest (twoPow n hn)
      rwa [BitVec.xor_assoc, BitVec.xor_self, BitVec.xor_zero] at h

/-- The characteristic polynomial sends every state of one bit of S0 to zero. -/
theorem charPoly_annihilates_twoPow : ∀ i < 64,
    jumpLoop charBits (0#64, 0#64) (BitVec.twoPow 64 i, 0#64) = (0#64, 0#64) := by
  decide +kernel

/-- Every state is the sum of one with S1 = 0 and of a step of such a one. -/
theorem exists_eq_pairXor_stepState (p : Pair) : ∃ x y : Word, p = pairXor (x, 0#64) (stepState (y, 0#64)) := by
  refine ⟨p.1 ^^^ (stepState (rotl64 p.2 28, 0#64)).1, rotl64 p.2 28, ?_⟩
  ext1
  · simp
  · simpa [stepState_snd] using (rotl64_rotl64 p.2 (k := 28) (by decide)).symm

/-- Cayley and Hamilton for the step function: the states of one bit of S0 decide it for every state. -/
theorem charPoly_annihilates (p : Pair) : jumpLoop charBits (0#64, 0#64) p = (0#64, 0#64) := by
  have additive (p q : Pair) := jumpLoop_pairXor charBits (0#64, 0#64) (0#64, 0#64) p q
  have onS0 : ∀ x : Word, jumpLoop charBits (0#64, 0#64) (x, 0#64) = (0#64, 0#64) :=
    word_xor_induction (jumpLoop_zero charBits) charPoly_annihilates_twoPow fun x y hx hy => by
      simpa [pairXor, hx, hy] using additive (x, 0#64) (y, 0#64)
  have onStep (y : Word) : jumpLoop charBits (0#64, 0#64) (stepState (y, 0#64)) = (0#64, 0#64) := by
    simpa [onS0] using jumpLoop_stepState charBits (0#64, 0#64) (y, 0#64)
  obtain ⟨x, y, rfl⟩ := exists_eq_pairXor_stepState p
  simpa [onS0, onStep] using additive (x, 0#64) (stepState (y, 0#64))

theorem polyAct_charPoly (p : Pair) : polyAct charPoly p = stepState^[128] p := by
  have h := charPoly_annihilates p
  rwa [charBits, jumpLoop_append, jumpLoop_true, jumpLoop_nil, pairXor_eq_zero] at h

@[simp] theorem polyAct_zero (p : Pair) : polyAct 0#128 p = (0#64, 0#64) :=
  jumpLoop_replicate_false 128 _ _

theorem polyAct_xor (b c : BitVec 128) (p : Pair) : polyAct (b ^^^ c) p = pairXor (polyAct b p) (polyAct c p) :=
  jumpLoop_map_xor (List.range 128) b c (0#64, 0#64) (0#64, 0#64) p

/-- `x` is the step itself. -/
theorem polyAct_two (p : Pair) : polyAct 2#128 p = stepState p := by
  have hbits : polyBits 2#128 = false :: true :: List.replicate 126 false := by decide
  rw [polyAct, hbits, jumpLoop_false, jumpLoop_true, jumpLoop_replicate_false, zero_pairXor]

/-- Multiplying by `x` is one more step. -/
theorem polyAct_mulX (b : BitVec 128) (p : Pair) : polyAct (mulX b) p = stepState (polyAct b p) := by
  have hb : polyBits b = ((List.range 127).map fun j => b.getLsbD j) ++ [b.msb] := by
    rw [polyBits, List.range_succ, List.map_append]
    rfl
  have hshift : polyBits (b <<< 1) = false :: (List.range 127).map fun j => b.getLsbD j := by
    rw [polyBits, List.range_succ_eq_map, List.map_cons, List.map_map]
    refine congrArg₂ List.cons (by simp) (List.map_congr_left fun j hj => ?_)
    have hlt : j + 1 < 128 := Nat.succ_lt_succ (List.mem_range.mp hj)
    simp [hlt]
  rw [mulX, polyAct_xor, polyAct_eq (b <<< 1), hshift, jumpLoop_false, polyAct_eq b, hb, jumpLoop_append, List.length_map,
    List.length_range]
  cases b.msb
  · rw [cond_false, polyAct_zero, pairXor_zero, jumpLoop_false, jumpLoop_nil, ← jumpLoop_stepState, stepState_zero]
  · rw [cond_true, polyAct_charPoly, jumpLoop_true, jumpLoop_nil, stepState_pairXor, ← jumpLoop_stepState,
      stepState_zero, ← Function.iterate_succ_apply' stepState]

theorem polyAct_mulLoop (bs : List Bool) (acc c : BitVec 128) (p : Pair) :
    polyAct (mulLoop bs acc c) p = jumpLoop bs (polyAct acc p) (polyAct c p) := by
  induction bs generalizing acc c with
  | nil => rw [mulLoop, jumpLoop_nil]
  | cons b bs ih =>
    cases b
    · rw [mulLoop, ih, cond_false, polyAct_mulX, jumpLoop_false]
    · rw [mulLoop, ih, cond_true, polyAct_xor, polyAct_mulX, jumpLoop_true]

theorem polyAct_squareMod (b : BitVec 128) (p : Pair) : polyAct (squareMod b) p = polyAct b (polyAct b p) := by
  rw [squareMod, polyAct_mulLoop, polyAct_zero, polyAct_eq b (polyAct b p)]

/-- Squaring `x` again and again doubles the number of steps each time. -/
theorem polyAct_squareMod_iterate (k : Nat) (p : Pair) : polyAct (squareMod^[k] 2#128) p = stepState^[2 ^ k] p := by
  induction k generalizing p with
  | zero => exact polyAct_two p
  | succ k ih => rw [Function.iterate_succ_apply', polyAct_squareMod, ih, ih, ← Function.iterate_add_apply, pow_succ,
      Nat.mul_two]

/-! ### The jump is 2^64 steps -/

/-- 64 squarings of `x` give the jump constants. -/
theorem squareMod_iterate_64 : polyBits (squareMod^[64] 2#128) = jumpBits := by
  decide +kernel

theorem jumpF_eq_iterate (p : Pair) : jumpF p = stepState^[2 ^ 64] p := by
  rw [← polyAct_squareMod_iterate, polyAct, squareMod_iterate_64, jumpF_eq]

@[simp] theorem jumpF_zero : jumpF (0#64, 0#64) = (0#64, 0#64) := by
  rw [jumpF_eq_iterate]
  exact Function.iterate_fixed stepState_zero _

theorem jumpF_injective : Function.Injective jumpF := by
  rw [funext jumpF_eq_iterate]
  exact stepState_injective.iterate _

end Sys2Proof.Machine

/-! ## The state and the steps that write it (10_state.md R20 to R35)

Each statement about a step goes by the cases of `StepEffect`, and of `ExecEffect` for a command. -/

namespace Sys2Proof.Machine

/-! ### What a step can do, said once -/

/-- The commands that write a state of their own and set VALID, with the pair they write. -/
def Loads (i : Instr) (p : Pair) : Prop :=
  (∃ x, i = .seed x ∧ p = seedF x) ∨ (∃ a b, i = .ldstate a b ∧ ¬(a = 0 ∧ b = 0) ∧ p = (a, b))

/-- The commands that move a valid state on, with the pair they write. -/
def Advances (i : Instr) (s : State) (p : Pair) : Prop :=
  s.valid = true ∧ (i = .next ∧ p = stepState s.gen ∨ i = .jump ∧ p = jumpF s.gen)

/-- What a legal command can leave: a fault, a state loaded, the state moved on, or the state only read. -/
inductive ExecEffect (i : Instr) (s : State) : State → Prop where
  | fault (c : FaultCode) : ExecEffect i s (raiseFault c s)
  | load {p : Pair} (h : Loads i p) : ExecEffect i s (((s.writeGen p).setValid).respond (.ok []))
  | advance {p : Pair} (ws : List Word) (h : Advances i s p) : ExecEffect i s ((s.writeGen p).respond (.ok ws))
  | read (ws : List Word) : ExecEffect i s (s.respond (.ok ws))

theorem execEffect_of_exec {i : Instr} {s t : State} (h : exec i s = .next t) : ExecEffect i s t := by
  cases i with
  | seed x =>
    obtain rfl := execSeed_cases h
    exact .load (.inl ⟨x, rfl, rfl⟩)
  | next =>
    obtain ⟨hv, rfl⟩ | ⟨-, rfl⟩ := execNext_cases h
    · exact .advance _ ⟨hv, .inl ⟨rfl, rfl⟩⟩
    · exact .fault _
  | jump =>
    obtain ⟨hv, rfl⟩ | ⟨-, rfl⟩ := execJump_cases h
    · exact .advance _ ⟨hv, .inr ⟨rfl, rfl⟩⟩
    · exact .fault _
  | rdstate =>
    obtain ⟨-, rfl⟩ | ⟨-, rfl⟩ := execRdstate_cases h
    · exact .read _
    · exact .fault _
  | ldstate a b =>
    obtain ⟨hab, rfl⟩ | ⟨-, -, rfl⟩ := execLdstate_cases h
    · exact .load (.inr ⟨a, b, rfl, by simpa using hab, rfl⟩)
    · exact .fault _
  | rdstatus =>
    obtain rfl := execRdstatus_cases h
    exact .read _

/-- What a step can leave: a reset, nothing done, a word taken, a response delivered, or a command executed. -/
inductive StepEffect (s : State) : State → Prop where
  | reset (h : s.resetAsserted = true) : StepEffect s s.hostDone.assertReset
  | hold : StepEffect s s
  | receive (w : Word) (hp : s.pending = none) (hd : decode s.received = .incomplete) :
      StepEffect s (s.hostDone.receive w)
  | deliver : StepEffect s s.hostDone.deliver
  | command {i : Instr} {rest : List Word} {t : State} (hp : s.pending = none)
      (hd : decode s.received = .command i rest) (h : ExecEffect i { s with received := rest } t) : StepEffect s t
  | illegal {w : Word} {rest : List Word} (hp : s.pending = none) (hd : decode s.received = .illegal w rest) :
      StepEffect s (raiseFault .illegalCommand { s with received := rest })

theorem hostTurn_of_resetAsserted {s : State} (h : s.resetAsserted = true) :
    s.hostTurn = s.hostDone.assertReset := by
  unfold State.resetAsserted at h
  unfold State.hostTurn
  cases hh : s.host with
  | nil => simp [hh] at h
  | cons e es => cases e <;> simp_all [HostEvent.isReset]

theorem stepEffect_of_step {s t : State} (h : step s = .next t) : StepEffect s t := by
  obtain ⟨hr, hs⟩ | ⟨hr, hw, hs⟩ | ⟨i, rest, -, hp, hd, hs⟩ | ⟨w, rest, -, hp, hd, hs⟩ := step_cases s <;>
    rw [hs] at h
  · obtain rfl := Host.Outcome.next.inj h
    rw [hostTurn_of_resetAsserted hr]
    exact .reset hr
  · obtain rfl := Host.Outcome.next.inj h
    obtain hh | ⟨w, es, -, hp, hh⟩ | ⟨es, -, hh⟩ | ⟨hr', -⟩ := hostTurn_cases s
    · exact hh.symm ▸ .hold
    · exact hh.symm ▸ .receive w hp (hw.resolve_left (by simp [hp]))
    · exact hh.symm ▸ .deliver
    · simp [hr] at hr'
  · exact .command hp hd (execEffect_of_exec h)
  · obtain rfl := execIllegal_cases h
    exact .illegal hp hd

/-! ### The fault record, VALID and the generator state over a step -/

/-- Settles O34, by the cases of a step: only a fault writes the record, and it answers ERR. -/
theorem faultRecordIsStickyUntilReset : Obligations.FaultRecordIsStickyUntilReset := by
  unfold Obligations.FaultRecordIsStickyUntilReset
  intro s t hr hstep
  cases stepEffect_of_step hstep with
  | reset h => simp [hr] at h
  | hold => simp +contextual
  | receive w hp hd => simp +contextual
  | deliver => simp +contextual
  | illegal hp hd => simp +contextual [hp]
  | command hp hd h =>
    cases h with
    | fault c => simp +contextual [hp]
    | load h => simp +contextual
    | advance ws h => simp +contextual
    | read ws => simp +contextual

/-- Settles O35, by the cases of a step: only a command that loads sets VALID. -/
theorem validIsSetOnlyBySeedAndLdstate : Obligations.ValidIsSetOnlyBySeedAndLdstate := by
  unfold Obligations.ValidIsSetOnlyBySeedAndLdstate
  intro s t hr hstep
  cases stepEffect_of_step hstep with
  | reset h => simp [hr] at h
  | hold => simp +contextual
  | receive w hp hd => simp +contextual
  | deliver => simp +contextual
  | illegal hp hd => simp +contextual
  | @command i rest _ hp hd h =>
    cases h with
    | fault c => simp +contextual
    | advance ws h => simp +contextual
    | read ws => simp +contextual
    | load h =>
      refine ⟨fun _ => rfl, fun _ _ => ⟨hp, i, rest, hd, ?_⟩⟩
      obtain ⟨x, rfl, -⟩ | ⟨a, b, rfl, hab, -⟩ := h
      · exact .inl ⟨x, rfl⟩
      · exact .inr ⟨a, b, rfl, hab⟩

/-- Settles O36, by the cases of a step: only a command that loads or advances writes the pair. -/
theorem onlyFourCommandsWriteTheGeneratorState : Obligations.OnlyFourCommandsWriteTheGeneratorState := by
  unfold Obligations.OnlyFourCommandsWriteTheGeneratorState
  intro s t hr hstep hne
  cases stepEffect_of_step hstep with
  | reset h => simp [hr] at h
  | hold => simp at hne
  | receive w hp hd => simp at hne
  | deliver => simp at hne
  | illegal hp hd => simp at hne
  | @command i rest _ hp hd h =>
    refine ⟨hp, i, rest, hd, ?_⟩
    cases h with
    | fault c => simp at hne
    | read ws => simp at hne
    | load h =>
      obtain ⟨x, rfl, -⟩ | ⟨a, b, rfl, hab, -⟩ := h
      · exact .inl ⟨x, rfl⟩
      · exact .inr (.inr ⟨a, b, rfl, hab⟩)
    | advance ws h =>
      obtain ⟨hv, ⟨hi, -⟩ | ⟨hi, -⟩⟩ := h
      · exact .inr (.inl ⟨hv, .inl hi⟩)
      · exact .inr (.inl ⟨hv, .inr hi⟩)

/-! ### A valid state is non-zero -/

theorem stepState_ne_zero {p : Pair} (h : p ≠ (0, 0)) : stepState p ≠ (0, 0) :=
  stepState_zero ▸ stepState_injective.ne h

theorem jumpF_ne_zero {p : Pair} (h : p ≠ (0, 0)) : jumpF p ≠ (0, 0) :=
  jumpF_zero ▸ jumpF_injective.ne h

/-- The pre-jump pair is zero for no seed, because SM(0) is not 0 (40_state_mixer.md R87). -/
theorem seedF_ne_zero (x : Word) : seedF x ≠ (0, 0) := by
  refine seedF_eq x ▸ jumpF_ne_zero fun h => ?_
  obtain ⟨rfl, hsm⟩ := Prod.mk.inj h
  exact absurd hsm (by decide)

theorem Loads.ne_zero {i : Instr} {p : Pair} (h : Loads i p) : p ≠ (0, 0) := by
  obtain ⟨x, -, rfl⟩ | ⟨a, b, -, hab, rfl⟩ := h
  · exact seedF_ne_zero x
  · simpa using hab

theorem Advances.ne_zero {i : Instr} {s : State} {p : Pair} (h : Advances i s p) (hs : s.NonZeroWhenValid) :
    p ≠ (0, 0) := by
  obtain ⟨hv, ⟨-, rfl⟩ | ⟨-, rfl⟩⟩ := h
  · exact stepState_ne_zero (hs hv)
  · exact jumpF_ne_zero (hs hv)

theorem nonZeroWhenValid_of_step {s t : State} (hs : s.NonZeroWhenValid) (hstep : step s = .next t) :
    t.NonZeroWhenValid := by
  cases stepEffect_of_step hstep with
  | reset h => exact fun hv => Bool.noConfusion hv
  | hold => exact hs
  | receive w hp hd => exact hs
  | deliver => exact hs
  | illegal hp hd => exact hs
  | command hp hd h =>
    cases h with
    | fault c => exact hs
    | read ws => exact hs
    | load h => exact fun _ => h.ne_zero
    | advance ws h => exact fun _ => h.ne_zero hs

theorem reset_nonZeroWhenValid : State.reset.NonZeroWhenValid :=
  fun hv => Bool.noConfusion hv

/-- Settles O45: STEP and JUMPF are injective with zero fixed, and SEED and LDSTATE write no zero pair. -/
theorem everyStepKeepsAValidStateNonZero : Obligations.EveryStepKeepsAValidStateNonZero := by
  unfold Obligations.EveryStepKeepsAValidStateNonZero
  exact ⟨reset_nonZeroWhenValid, fun _ _ => nonZeroWhenValid_of_step⟩

/-! ### The whole invariant -/

theorem faultRecordLegal_raiseFault (c : FaultCode) {s : State} (hs : s.FaultRecordLegal) :
    (raiseFault c s).FaultRecordLegal := by
  unfold State.FaultRecordLegal at *
  cases hf : s.fault
  · cases c <;> simp [hf, FaultCode.code]
  · simpa [hf] using hs

theorem faultRecordLegal_of_step {s t : State} (hs : s.FaultRecordLegal) (hstep : step s = .next t) :
    t.FaultRecordLegal := by
  cases stepEffect_of_step hstep with
  | reset h => simp [State.FaultRecordLegal]
  | hold => exact hs
  | receive w hp hd => exact hs
  | deliver => exact hs
  | illegal hp hd => exact faultRecordLegal_raiseFault _ hs
  | command hp hd h =>
    cases h with
    | fault c => exact faultRecordLegal_raiseFault c hs
    | read ws => exact hs
    | load h => exact hs
    | advance ws h => exact hs

/-- A legal command word with no more words after it than it wants leaves nothing behind. -/
theorem decode_cons_of_length_le {w : Word} {op : Opcode} {ops : List Word} (h : opcodeOfWord w = some op)
    (hl : ops.length ≤ op.nops) : decode (w :: ops) = .incomplete ∨ ∃ i, decode (w :: ops) = .command i [] := by
  obtain hlt | heq := hl.lt_or_eq
  · exact .inl (decode_cons_incomplete h hlt)
  · rw [decode_cons_command h heq.ge, ← heq, List.drop_length]
    exact .inr ⟨_, rfl⟩

/-- One word more leaves a command still waiting, or complete with nothing after it. -/
theorem decode_append_of_incomplete {ws : List Word} (w : Word) (h : decode ws = .incomplete) :
    decode (ws ++ [w]) = .incomplete ∨ (∃ i, decode (ws ++ [w]) = .command i []) ∨
      ∃ w', decode (ws ++ [w]) = .illegal w' [] := by
  cases ws with
  | nil =>
    cases hop : opcodeOfWord w with
    | none => exact .inr (.inr ⟨w, decode_cons_illegal [] hop⟩)
    | some op => exact (decode_cons_of_length_le hop (Nat.zero_le _)).imp_right .inl
  | cons w₀ ops =>
    cases hop : opcodeOfWord w₀ with
    | none => simp [decode_cons_illegal ops hop] at h
    | some op =>
      have hlt : ops.length < op.nops := by
        by_contra hge
        simp [decode_cons_command hop (not_lt.mp hge)] at h
      exact (decode_cons_of_length_le hop (ops := ops ++ [w]) (by simpa using hlt)).imp_right .inl

theorem holdsOneCommand_of_received_nil {s : State} (h : s.received = []) : s.HoldsOneCommand := by
  simp [State.HoldsOneCommand, h]

theorem holdsOneCommand_receive {s : State} (w : Word) (hp : s.pending = none) (hd : decode s.received = .incomplete) :
    (s.hostDone.receive w).HoldsOneCommand := by
  obtain h | ⟨i, h⟩ | ⟨w', h⟩ := decode_append_of_incomplete w hd <;> simp [State.HoldsOneCommand, hp, h]

theorem ExecEffect.received_eq {i : Instr} {s t : State} (h : ExecEffect i s t) : t.received = s.received := by
  cases h <;> rfl

theorem holdsOneCommand_of_step {s t : State} (hs : s.HoldsOneCommand) (hstep : step s = .next t) :
    t.HoldsOneCommand := by
  have hone := hs.1
  cases stepEffect_of_step hstep with
  | reset h => exact holdsOneCommand_of_received_nil rfl
  | hold => exact hs
  | receive w hp hd => exact holdsOneCommand_receive w hp hd
  | deliver => exact ⟨hone, by simp⟩
  | illegal hp hd =>
    rw [hd] at hone
    exact holdsOneCommand_of_received_nil hone
  | command hp hd h =>
    rw [hd] at hone
    exact holdsOneCommand_of_received_nil (h.received_eq.trans hone)

theorem errIsRecorded_of_step {s t : State} (hs : s.ErrIsRecorded) (hstep : step s = .next t) : t.ErrIsRecorded := by
  cases stepEffect_of_step hstep with
  | reset h => exact fun h => by simp at h
  | hold => exact hs
  | receive w hp hd => exact hs
  | deliver => exact fun h => by simp at h
  | illegal hp hd => exact fun _ => rfl
  | command hp hd h =>
    cases h with
    | fault c => exact fun _ => rfl
    | read ws => exact fun h => by simp at h
    | load h => exact fun h => by simp at h
    | advance ws h => exact fun h => by simp at h

/-- Settles O44: nothing is valid, held, outstanding or recorded at reset. -/
theorem resetMeetsTheInvariant : Obligations.ResetMeetsTheInvariant := by
  unfold Obligations.ResetMeetsTheInvariant
  exact {
    nonZero := reset_nonZeroWhenValid
    record := rfl
    framing := holdsOneCommand_of_received_nil rfl
    err := fun h => nomatch h }

/-- Settles O46: each clause is kept by itself. -/
theorem everyStepKeepsTheInvariant : Obligations.EveryStepKeepsTheInvariant := by
  unfold Obligations.EveryStepKeepsTheInvariant
  exact fun _ _ hs hstep => {
    nonZero := nonZeroWhenValid_of_step hs.nonZero hstep
    record := faultRecordLegal_of_step hs.record hstep
    framing := holdsOneCommand_of_step hs.framing hstep
    err := errIsRecorded_of_step hs.err hstep }

/-! ### The words of an unseeded state -/

@[simp] theorem State.writeGen_writeGen (s : State) (p q : Pair) : (s.writeGen p).writeGen q = s.writeGen q := rfl

theorem sameButUnseeded_iff {s t : State} :
    SameButUnseeded s t ↔ s = t ∨ s.valid = false ∧ ∃ p, t = s.writeGen p := by
  constructor
  · rintro ⟨hv, hf, hc, hr, hp, hd, hh, hi, hg⟩
    cases hsv : s.valid with
    | true =>
      left
      obtain ⟨h0, h1⟩ := Prod.mk.inj (hg hsv)
      cases s; cases t; simp_all
    | false =>
      refine .inr ⟨rfl, t.gen, ?_⟩
      cases s; cases t; simp_all [State.writeGen]
  · rintro (rfl | ⟨hv, p, rfl⟩)
    · exact ⟨rfl, rfl, rfl, rfl, rfl, rfl, rfl, rfl, fun _ => rfl⟩
    · exact ⟨rfl, rfl, rfl, rfl, rfl, rfl, rfl, rfl, by simp [hv]⟩

theorem SameButUnseeded.refl (s : State) : SameButUnseeded s s :=
  sameButUnseeded_iff.mpr (.inl rfl)

theorem sameButUnseeded_writeGen {s : State} (p : Pair) (hv : s.valid = false) : SameButUnseeded s (s.writeGen p) :=
  sameButUnseeded_iff.mpr (.inr ⟨hv, p, rfl⟩)

theorem SameButUnseeded.observe_eq {s t : State} (h : SameButUnseeded s t) : s.observe = t.observe := by
  obtain rfl | ⟨hv, p, rfl⟩ := sameButUnseeded_iff.mp h
  · rfl
  · simp [State.observe, hv]

/-- The host's turn reads neither word of the pair, and a reset draws both anew. -/
theorem SameButUnseeded.hostTurn {s t : State} (h : SameButUnseeded s t) : SameButUnseeded s.hostTurn t.hostTurn := by
  obtain rfl | ⟨hv, p, rfl⟩ := sameButUnseeded_iff.mp h
  · exact .refl _
  unfold State.hostTurn
  rw [State.writeGen_host, State.writeGen_pending]
  cases s.host with
  | nil => exact h
  | cons e es =>
    cases e with
    | send w =>
      cases s.pending.isSome with
      | true => exact h
      | false => exact sameButUnseeded_writeGen (s := s.hostDone.receive w) p hv
    | accept => exact sameButUnseeded_writeGen (s := s.hostDone.deliver) p hv
    | reset => exact .refl _
    | powerCycle => exact .refl _

/-- Two outcomes are next states that no host can tell apart. -/
def SameNext (x y : Host.Outcome State Fault Refusal) : Prop :=
  ∃ s t, x = .next s ∧ y = .next t ∧ SameButUnseeded s t

@[simp] theorem sameNext_next {s t : State} : SameNext (.next s) (.next t) ↔ SameButUnseeded s t := by
  simp [SameNext]

theorem SameButUnseeded.raiseFault {s t : State} (h : SameButUnseeded s t) (c : FaultCode) :
    SameButUnseeded (raiseFault c s) (raiseFault c t) := by
  obtain rfl | ⟨hv, p, rfl⟩ := sameButUnseeded_iff.mp h
  · exact .refl _
  · exact sameButUnseeded_writeGen (s := Machine.raiseFault c s) p hv

theorem exec_total (i : Instr) (s : State) : ∃ t, exec i s = .next t := by
  cases i with
  | seed x => exact ⟨_, rfl⟩
  | next => cases hv : s.valid <;> simp [exec, execNext, hv]
  | jump => cases hv : s.valid <;> simp [exec, execJump, hv]
  | rdstate => cases hv : s.valid <;> simp [exec, execRdstate, hv]
  | ldstate a b => cases hz : bothZero a b <;> simp [exec, execLdstate, hz]
  | rdstatus => exact ⟨_, rfl⟩

/-- While VALID = 0 a command reads neither word of the pair: it faults, overwrites both, or answers the status. -/
theorem SameButUnseeded.exec {s t : State} (h : SameButUnseeded s t) (i : Instr) :
    SameNext (exec i s) (exec i t) := by
  obtain rfl | ⟨hv, p, rfl⟩ := sameButUnseeded_iff.mp h
  · obtain ⟨t, ht⟩ := exec_total i s
    exact ⟨t, t, ht, ht, .refl t⟩
  cases i with
  | seed x => exact sameNext_next.mpr (.refl _)
  | next => simpa [Machine.exec, execNext, hv] using h.raiseFault .unseeded
  | jump => simpa [Machine.exec, execJump, hv] using h.raiseFault .unseeded
  | rdstate => simpa [Machine.exec, execRdstate, hv] using h.raiseFault .unseeded
  | ldstate a b =>
    cases hz : bothZero a b with
    | true => simpa [Machine.exec, execLdstate, hz] using h.raiseFault .zeroState
    | false => simp [Machine.exec, execLdstate, hz, SameButUnseeded.refl]
  | rdstatus => exact sameNext_next.mpr (sameButUnseeded_writeGen (s := s.respond _) p hv)

theorem SameButUnseeded.step {s t : State} (h : SameButUnseeded s t) : SameNext (step s) (step t) := by
  have hturn := sameNext_next.mpr h.hostTurn
  obtain ⟨hv, hf, hc, hr, hp, hd, hh, hi, hg⟩ := h
  have hrest (rest : List Word) : SameButUnseeded { s with received := rest } { t with received := rest } :=
    ⟨hv, hf, hc, rfl, hp, hd, hh, hi, hg⟩
  have hreset : s.resetAsserted = t.resetAsserted := by rw [State.resetAsserted, hh, State.resetAsserted]
  unfold Machine.step
  rw [hreset, hp, hr]
  cases t.resetAsserted with
  | true => exact hturn
  | false =>
    cases t.pending with
    | some r => exact hturn
    | none =>
      cases decode t.received with
      | incomplete => exact hturn
      | command i rest => exact (hrest rest).exec i
      | illegal w rest => exact sameNext_next.mpr ((hrest rest).raiseFault .illegalCommand)

theorem run_succ_of_step {s t : State} (h : step s = .next t) (n : Nat) :
    Host.Core.run Sys2Proof.core (n + 1) s = Host.Core.run Sys2Proof.core n t := by
  have hcore : Sys2Proof.core.step s = .next t := h
  simp only [Host.Core.run, hcore]

/-- Settles O47, by induction on the number of steps: a step keeps two states the same to every host. -/
theorem unseededStateIsNeverObservable : Obligations.UnseededStateIsNeverObservable := by
  unfold Obligations.UnseededStateIsNeverObservable
  intro n
  induction n with
  | zero => exact fun s t h => ⟨s, t, rfl, rfl, h, h.observe_eq⟩
  | succ n ih =>
    intro s t h
    obtain ⟨s₁, t₁, hs, ht, h₁⟩ := h.step
    rw [run_succ_of_step hs, run_succ_of_step ht]
    exact ih s₁ t₁ h₁

/-! ### The STATUS word and the state after reset -/

@[simp] theorem getLsbD_flagWord (b : Bool) (i : Nat) : (flagWord b).getLsbD i = (decide (i = 0) && b) := by
  by_cases h : i = 0 <;> simp [flagWord, h]

/-- Settles O37: each field of STATUS lies at its own bits. -/
theorem statusWordLayoutBitByBit : Obligations.StatusWordLayoutBitByBit := by
  unfold Obligations.StatusWordLayoutBitByBit
  intro s i hi
  simp only [statusWord, BitVec.getLsbD_or, BitVec.getLsbD_shiftLeft, BitVec.getLsbD_setWidth, getLsbD_flagWord,
    hi]
  obtain rfl | rfl | hge : i = 0 ∨ i = 1 ∨ 2 ≤ i := by omega
  · simp
  · simp
  have hflags : i ≠ 0 ∧ i ≠ 1 ∧ i - 1 ≠ 0 := by omega
  obtain hlow | hcode | hhigh : i < 8 ∨ (8 ≤ i ∧ i ≤ 15) ∨ 16 ≤ i := by omega
  · simp [hflags, hlow, hlow.not_ge]
  · have hshift : ¬i < 8 ∧ i - 8 < 64 := by omega
    simp [hflags, hcode, hshift]
  · simp [hflags, BitVec.getLsbD_of_ge s.fcode (i - 8) (by omega), show ¬i ≤ 15 by omega]

/-- Settles O41: every field is written out in `State.reset`. -/
theorem resetClearsTheStatusFields : Obligations.ResetClearsTheStatusFields := by
  unfold Obligations.ResetClearsTheStatusFields
  exact ⟨rfl, rfl, rfl, rfl, rfl, rfl⟩

end Sys2Proof.Machine

/-! ## Commands over the channels, and the host's checkpoints (20_memory.md R41 to R51)

A step is said forwards, one equation a case; a session is its words taken one by one, the command, and the response
accepted.  Nothing a command does reads the host's coming actions, so sessions in a row compose. -/

namespace Sys2Proof.Machine

/-! ### Decoding a command's words -/

/-- What the decoder answers at the head of a stream where a command stands. -/
def Command.decoded (c : Command) (rest : List Word) : Decoded :=
  match c with
  | .legal i => .command i rest
  | .illegal w => .illegal w rest

/-- A word is its two fields. -/
theorem rsvField_append_opcField (w : Word) : rsvField w ++ opcField w = w := by
  refine BitVec.eq_of_getLsbD_eq fun i hi => ?_
  rw [BitVec.getLsbD_append]
  split
  · next h => simp [opcField, h]
  · next h => simp [rsvField, show i - 8 < 56 by omega, show 8 + (i - 8) = i by omega]

/-- A word names an opcode only as that opcode's command word. -/
theorem eq_commandWord_of_opcodeOfWord {w : Word} {op : Opcode} (h : opcodeOfWord w = some op) :
    w = op.commandWord := by
  unfold opcodeOfWord at h
  split at h
  · cases h
  · next hrsv =>
    rw [← rsvField_append_opcField w, not_not.mp hrsv, opcodeOfValue_eq_some.mp h]
    rfl

theorem legalCommandWord_commandWord (op : Opcode) : legalCommandWord op.commandWord = true := by
  cases op <;> decide

theorem opcodeOfWord_eq_none_of_not_legal {w : Word} (h : legalCommandWord w = false) : opcodeOfWord w = none := by
  cases hop : opcodeOfWord w with
  | none => rfl
  | some op => simp [eq_commandWord_of_opcodeOfWord hop, legalCommandWord_commandWord] at h

theorem decode_words_append {c : Command} (hc : c.wellFormed = true) (rest : List Word) :
    decode (c.words ++ rest) = c.decoded rest := by
  cases c with
  | legal i =>
    have hlen := length_operandWords i
    rw [Command.words, encode, List.cons_append, decode_cons_command (opcodeOfWord_commandWord _) (by simp),
      List.take_left' hlen, List.drop_left' hlen, command_operandWords]
    rfl
  | illegal w =>
    have hw : legalCommandWord w = false := by simpa [Command.wellFormed] using hc
    exact decode_cons_illegal rest (opcodeOfWord_eq_none_of_not_legal hw)

/-- The decoder waits until the last word of a command. -/
theorem decode_take_words (c : Command) {k : Nat} (hk : k < c.words.length) :
    decode (c.words.take k) = .incomplete := by
  cases k with
  | zero => rfl
  | succ k =>
    cases c with
    | legal i =>
      have hk' : k < i.opcode.nops := by simpa [Command.words] using hk
      exact decode_cons_incomplete (opcodeOfWord_commandWord _) (by simp [hk'])
    | illegal w => simp [Command.words] at hk

/-! ### A step, forwards -/

theorem step_of_decoded {s : State} {c : Command} {rest : List Word} (hr : s.resetAsserted = false)
    (hp : s.pending = none) (hd : decode s.received = c.decoded rest) :
    step s = c.exec { s with received := rest } := by
  cases c <;> simp [step, hr, hp, hd, Command.decoded, Command.exec]

theorem Command.exec_total (c : Command) (s : State) : ∃ t, c.exec s = .next t := by
  cases c with
  | legal i => exact Machine.exec_total i s
  | illegal w => exact ⟨_, rfl⟩

/-- No state stops the machine. -/
theorem step_total (s : State) : ∃ t, step s = .next t := by
  obtain ⟨-, h⟩ | ⟨-, -, h⟩ | ⟨i, rest, -, -, -, h⟩ | ⟨w, rest, -, -, -, h⟩ := step_cases s
  · exact ⟨_, h⟩
  · exact ⟨_, h⟩
  · exact h ▸ exec_total i _
  · exact ⟨_, h⟩

theorem step_of_pending {s : State} {r : Response} (hp : s.pending = some r) : step s = .next s.hostTurn := by
  simp [step, hp]

theorem step_of_incomplete {s : State} (hd : decode s.received = .incomplete) : step s = .next s.hostTurn := by
  obtain ⟨-, h⟩ | ⟨-, -, h⟩ | ⟨i, rest, -, -, hd', -⟩ | ⟨w, rest, -, -, hd', -⟩ := step_cases s
  · exact h
  · exact h
  · simp [hd] at hd'
  · simp [hd] at hd'

theorem hostTurn_of_send {s : State} {w : Word} {es : List HostEvent} (hh : s.host = .send w :: es)
    (hp : s.pending = none) : s.hostTurn = { s with host := es, received := s.received ++ [w] } := by
  simp [State.hostTurn, hh, hp, State.receive, State.hostDone]

theorem hostTurn_of_accept {s : State} {r : Response} {es : List HostEvent} (hh : s.host = .accept :: es)
    (hp : s.pending = some r) :
    s.hostTurn = { s with host := es, pending := none, delivered := s.delivered ++ [r] } := by
  simp [State.hostTurn, hh, hp, State.deliver, State.hostDone]

/-- A host that neither accepts nor resets can do nothing to a block whose response is outstanding. -/
theorem hostTurn_of_not_accept {s : State} {r : Response} (hp : s.pending = some r) (hr : s.resetAsserted = false)
    (hh : ∀ es, s.host ≠ .accept :: es) : s.hostTurn = s := by
  obtain h | ⟨w, es, -, hp', -⟩ | ⟨es, hh', -⟩ | ⟨hr', -⟩ := hostTurn_cases s
  · exact h
  · simp [hp] at hp'
  · exact absurd hh' (hh es)
  · simp [hr] at hr'

/-- Settles O7: a legal command is the decoded case of a step. -/
theorem stepRunsTheDecodedCommand : Obligations.StepRunsTheDecodedCommand := by
  unfold Obligations.StepRunsTheDecodedCommand
  exact fun _ i _ hr hp hd => step_of_decoded (c := .legal i) hr hp hd

/-- Settles O9: while a response is outstanding a step is the host's turn. -/
theorem noCommandIsTakenBeforeTheResponseIsDelivered :
    Obligations.NoCommandIsTakenBeforeTheResponseIsDelivered := by
  unfold Obligations.NoCommandIsTakenBeforeTheResponseIsDelivered
  intro s r hp hr
  rw [step_of_pending hp]
  exact ⟨fun es hh => congrArg _ (hostTurn_of_accept hh hp),
    fun hh => congrArg _ (hostTurn_of_not_accept hp hr hh)⟩

/-! ### What a command leaves alone -/

theorem ExecEffect.channels_eq {i : Instr} {s t : State} (h : ExecEffect i s t) :
    t.received = s.received ∧ t.delivered = s.delivered ∧ t.host = s.host ∧ t.drawIndex = s.drawIndex := by
  cases h <;> exact ⟨rfl, rfl, rfl, rfl⟩

/-- Settles O17, by the effects of a command: each writes registers and answers, and no more. -/
theorem commandsLeaveTheChannelsAlone : Obligations.CommandsLeaveTheChannelsAlone := by
  unfold Obligations.CommandsLeaveTheChannelsAlone
  intro c s t h
  cases c with
  | legal i => exact (execEffect_of_exec h).channels_eq
  | illegal w =>
    obtain rfl := execIllegal_cases (w := w) h
    exact ⟨rfl, rfl, rfl, rfl⟩

theorem Command.pending_of_exec {c : Command} {s t : State} (h : c.exec s = .next t) : ∃ r, t.pending = some r := by
  cases c with
  | legal i => cases execEffect_of_exec h <;> exact ⟨_, rfl⟩
  | illegal w =>
    obtain rfl := execIllegal_cases (w := w) h
    exact ⟨_, rfl⟩

/-! ### The commands, forwards -/

theorem exec_next_of_valid {s : State} (hv : s.valid = true) :
    exec .next s = .next ((s.writeGen (stepState s.gen)).respond (.ok [stepOutput s.gen])) := by
  simp [exec, execNext, hv]

theorem exec_next_of_not_valid {s : State} (hv : s.valid = false) :
    exec .next s = .next (raiseFault .unseeded s) := by
  simp [exec, execNext, hv]

theorem exec_jump_of_valid {s : State} (hv : s.valid = true) :
    exec .jump s = .next ((s.writeGen (jumpF s.gen)).respond (.ok [])) := by
  simp [exec, execJump, hv]

theorem exec_jump_of_not_valid {s : State} (hv : s.valid = false) :
    exec .jump s = .next (raiseFault .unseeded s) := by
  simp [exec, execJump, hv]

theorem exec_rdstate_of_valid {s : State} (hv : s.valid = true) :
    exec .rdstate s = .next (s.respond (.ok [s.s0, s.s1])) := by
  simp [exec, execRdstate, hv]

theorem exec_rdstate_of_not_valid {s : State} (hv : s.valid = false) :
    exec .rdstate s = .next (raiseFault .unseeded s) := by
  simp [exec, execRdstate, hv]

theorem exec_ldstate_of_ne_zero {a b : Word} (hab : (a, b) ≠ (0, 0)) (s : State) :
    exec (.ldstate a b) s = .next (((s.writeGen (a, b)).setValid).respond (.ok [])) := by
  have hz : bothZero a b = false := by simpa [bothZero] using hab
  simp [exec, execLdstate, hz]

theorem exec_ldstate_zero (s : State) : exec (.ldstate 0 0) s = .next (raiseFault .zeroState s) := rfl

/-! ### The host's coming actions -/

/-- The same block before a host with these actions to come. -/
def State.withHost (s : State) (es : List HostEvent) : State :=
  { s with host := es }

@[simp] theorem State.withHost_host (s : State) (es : List HostEvent) : (s.withHost es).host = es := rfl
@[simp] theorem State.withHost_received (s : State) (es : List HostEvent) : (s.withHost es).received = s.received := rfl
@[simp] theorem State.withHost_pending (s : State) (es : List HostEvent) : (s.withHost es).pending = s.pending := rfl
@[simp] theorem State.withHost_withHost (s : State) (es es' : List HostEvent) :
    (s.withHost es).withHost es' = s.withHost es' := rfl

/-- No command reads what the host will do next. -/
theorem exec_withHost {i : Instr} {s t : State} (h : exec i s = .next t) (es : List HostEvent) :
    exec i (s.withHost es) = .next (t.withHost es) := by
  cases i with
  | seed x =>
    obtain rfl := execSeed_cases h
    rfl
  | next =>
    obtain ⟨hv, rfl⟩ | ⟨hv, rfl⟩ := execNext_cases h
    · exact exec_next_of_valid hv
    · exact exec_next_of_not_valid hv
  | jump =>
    obtain ⟨hv, rfl⟩ | ⟨hv, rfl⟩ := execJump_cases h
    · exact exec_jump_of_valid hv
    · exact exec_jump_of_not_valid hv
  | rdstate =>
    obtain ⟨hv, rfl⟩ | ⟨hv, rfl⟩ := execRdstate_cases h
    · exact exec_rdstate_of_valid hv
    · exact exec_rdstate_of_not_valid hv
  | ldstate a b =>
    obtain ⟨hab, rfl⟩ | ⟨rfl, rfl, rfl⟩ := execLdstate_cases h
    · exact exec_ldstate_of_ne_zero hab _
    · exact exec_ldstate_zero _
  | rdstatus =>
    obtain rfl := execRdstatus_cases h
    rfl

theorem Command.exec_withHost {c : Command} {s t : State} (h : c.exec s = .next t) (es : List HostEvent) :
    c.exec (s.withHost es) = .next (t.withHost es) := by
  cases c with
  | legal i => exact Machine.exec_withHost h es
  | illegal w =>
    obtain rfl := execIllegal_cases (w := w) h
    rfl

/-! ### A command completed, and commands one after another -/

theorem Command.complete_of_exec {c : Command} {s t : State} (h : c.exec s = .next t) : c.complete s = t.deliver := by
  simp [Command.complete, h]

theorem Command.complete_withHost (s : State) (c : Command) (es : List HostEvent) :
    Command.complete (s.withHost es) c = (Command.complete s c).withHost es := by
  obtain ⟨t, ht⟩ := c.exec_total s
  rw [complete_of_exec ht, complete_of_exec (exec_withHost ht es)]
  rfl

@[simp] theorem Command.complete_pending (s : State) (c : Command) : (Command.complete s c).pending = none := by
  obtain ⟨t, ht⟩ := c.exec_total s
  rw [complete_of_exec ht, State.deliver_pending]

@[simp] theorem Command.complete_received (s : State) (c : Command) :
    (Command.complete s c).received = s.received := by
  obtain ⟨t, ht⟩ := c.exec_total s
  obtain ⟨hrec, -⟩ := commandsLeaveTheChannelsAlone c s t ht
  rw [complete_of_exec ht, State.deliver_received, hrec]

@[simp] theorem Command.complete_host (s : State) (c : Command) : (Command.complete s c).host = s.host := by
  obtain ⟨t, ht⟩ := c.exec_total s
  obtain ⟨-, -, hhost, -⟩ := commandsLeaveTheChannelsAlone c s t ht
  rw [complete_of_exec ht, State.deliver_host, hhost]

theorem runCommands_cons (s : State) (c : Command) (cs : List Command) :
    runCommands s (c :: cs) = runCommands (Command.complete s c) cs := rfl

theorem runCommands_withHost (s : State) (cs : List Command) (es : List HostEvent) :
    runCommands (s.withHost es) cs = (runCommands s cs).withHost es := by
  induction cs generalizing s with
  | nil => rfl
  | cons c cs ih => rw [runCommands_cons, runCommands_cons, Command.complete_withHost, ih]

theorem State.finished_iff {s : State} : s.finished = true ↔ s.received = [] ∧ s.pending = none ∧ s.host = [] := by
  simp [State.finished]

/-- Commands completed leave a finished run finished. -/
theorem finished_runCommands {s : State} (h : s.finished = true) (cs : List Command) :
    (runCommands s cs).finished = true := by
  induction cs generalizing s with
  | nil => exact h
  | cons c cs ih =>
    obtain ⟨hrec, -, hhost⟩ := State.finished_iff.mp h
    exact ih (State.finished_iff.mpr (by simp [hrec, hhost]))

/-! ### Running a session -/

theorem run_add_of_run {m : Nat} {s t : State} (h : Host.Core.run Sys2Proof.core m s = .next t) (n : Nat) :
    Host.Core.run Sys2Proof.core (m + n) s = Host.Core.run Sys2Proof.core n t := by
  induction m generalizing s with
  | zero =>
    obtain rfl : s = t := Host.Outcome.next.inj h
    rw [Nat.zero_add]
  | succ m ih =>
    obtain ⟨u, hu⟩ := step_total s
    rw [run_succ_of_step hu] at h
    rw [Nat.add_right_comm, run_succ_of_step hu, ih h]

/-- Words sent while the decoder waits are all taken, one a step. -/
theorem run_send_words {ws : List Word} {s : State} {es : List HostEvent} (hh : s.host = ws.map .send ++ es)
    (hp : s.pending = none) (hd : ∀ k < ws.length, decode (s.received ++ ws.take k) = .incomplete) :
    Host.Core.run Sys2Proof.core ws.length s = .next { s with host := es, received := s.received ++ ws } := by
  induction ws generalizing s with
  | nil =>
    obtain rfl : s.host = es := hh
    rw [List.append_nil]
    rfl
  | cons w ws ih =>
    have hwait : decode s.received = .incomplete := by simpa using hd 0 (Nat.succ_pos _)
    have hstep := (step_of_incomplete hwait).trans (congrArg _ (hostTurn_of_send hh hp))
    have hrest := ih (s := { s with host := ws.map .send ++ es, received := s.received ++ [w] }) rfl hp
      fun k hk => by simpa using hd (k + 1) (Nat.succ_lt_succ hk)
    rw [List.length_cons, run_succ_of_step hstep, List.append_cons s.received w ws]
    exact hrest

/-- A complete command in an otherwise idle block executes, and the block is idle but for its response. -/
theorem step_of_words {c : Command} (hc : c.wellFormed = true) {s t : State} (hr : s.resetAsserted = false)
    (hrec : s.received = c.words) (hp : s.pending = none) (ht : c.exec { s with received := [] } = .next t) :
    step s = .next t := by
  have hd : decode s.received = c.decoded [] := by simpa [hrec] using decode_words_append hc []
  rw [step_of_decoded hr hp hd, ht]

theorem step_of_accept {s : State} {r : Response} {es : List HostEvent} (hh : s.host = .accept :: es)
    (hp : s.pending = some r) : step s = .next (s.deliver.withHost es) := by
  rw [step_of_pending hp, hostTurn_of_accept hh hp, State.deliver, hp]
  rfl

/-- A session from an idle block: the words are taken, the command executes, the response is delivered. -/
theorem run_session {c : Command} (hc : c.wellFormed = true) {s : State} {es : List HostEvent}
    (hh : s.host = c.session ++ es) (hrec : s.received = []) (hp : s.pending = none) :
    Host.Core.run Sys2Proof.core c.sessionSteps s = .next ((Command.complete s c).withHost es) := by
  obtain ⟨t, ht⟩ := c.exec_total s
  have hsend : Host.Core.run Sys2Proof.core c.words.length s =
      .next { s with host := .accept :: es, received := c.words } := by
    rw [run_send_words (es := .accept :: es) (by simp [hh, Command.session]) hp
      fun k hk => by simpa [hrec] using decode_take_words c hk, hrec, List.nil_append]
  have hexec : step { s with host := .accept :: es, received := c.words } = .next (t.withHost (.accept :: es)) :=
    step_of_words hc rfl rfl hp (hrec ▸ Command.exec_withHost ht _)
  obtain ⟨r, hr⟩ := Command.pending_of_exec ht
  have haccept := step_of_accept (s := t.withHost (.accept :: es)) rfl hr
  rw [Command.sessionSteps, run_add_of_run hsend, run_succ_of_step hexec, run_succ_of_step haccept,
    Command.complete_of_exec ht]
  rfl

theorem run_sessions {cs : List Command} (hcs : ∀ c ∈ cs, c.wellFormed = true) {s : State} {later : List HostEvent}
    (hh : s.host = cs.flatMap Command.session ++ later) (hrec : s.received = []) (hp : s.pending = none) :
    Host.Core.run Sys2Proof.core ((cs.map Command.sessionSteps).sum) s =
      .next ((runCommands s cs).withHost later) := by
  induction cs generalizing s with
  | nil =>
    obtain rfl : s.host = later := hh
    rfl
  | cons c cs ih =>
    obtain ⟨hc, hcs⟩ := List.forall_mem_cons.mp hcs
    rw [List.flatMap_cons, List.append_assoc] at hh
    rw [List.map_cons, List.sum_cons, run_add_of_run (run_session hc hh hrec hp),
      ih hcs rfl (by simp [hrec]) (by simp), runCommands_withHost, State.withHost_withHost, runCommands_cons]

/-- Settles O48, by induction on the commands: a session is its command completed (`run_session`). -/
theorem hostSessionsRunAsTheCompositionOfCommands : Obligations.HostSessionsRunAsTheCompositionOfCommands := by
  unfold Obligations.HostSessionsRunAsTheCompositionOfCommands
  intro cs s later hcs hrec hp
  constructor
  · have hrun := run_sessions hcs (s := s.withHost (cs.flatMap Command.session ++ later)) rfl hrec hp
    rwa [runCommands_withHost, State.withHost_withHost, ← runCommands_withHost] at hrun
  · rintro rfl
    exact finished_runCommands (s := s.withHost []) (State.finished_iff.mpr ⟨hrec, hp, rfl⟩) cs

/-! ### The same command again -/

theorem raiseFault_raiseFault (c : FaultCode) (s : State) : raiseFault c (raiseFault c s) = raiseFault c s := rfl

/-- Settles O40, by the cases of each command: a second write, fault or read finds what the first one left. -/
theorem seedLdstateRdstateRdstatusAreIdempotentTwoNextStepTwice :
    Obligations.SeedLdstateRdstateRdstatusAreIdempotentTwoNextStepTwice := by
  unfold Obligations.SeedLdstateRdstateRdstatusAreIdempotentTwoNextStepTwice
  constructor
  · rintro i s (⟨x, rfl⟩ | ⟨a, b, rfl⟩ | rfl | rfl)
    · exact ⟨_, rfl, rfl⟩
    · by_cases hab : (a, b) = (0, 0)
      · obtain ⟨rfl, rfl⟩ := Prod.mk.inj hab
        exact ⟨_, exec_ldstate_zero s, by rw [exec_ldstate_zero, raiseFault_raiseFault]⟩
      · exact ⟨_, exec_ldstate_of_ne_zero hab s, exec_ldstate_of_ne_zero hab _⟩
    · cases hv : s.valid with
      | true => exact ⟨_, exec_rdstate_of_valid hv, exec_rdstate_of_valid hv⟩
      | false =>
        refine ⟨_, exec_rdstate_of_not_valid hv, ?_⟩
        rw [exec_rdstate_of_not_valid (s := raiseFault .unseeded s) hv, raiseFault_raiseFault]
    · exact ⟨_, rfl, rfl⟩
  · intro s hv
    exact ⟨_, _, exec_next_of_valid hv, exec_next_of_valid hv, rfl, rfl, rfl⟩

/-! ### The host's checkpoints -/

theorem getElem?_bytesOfWord (w : Word) {i : Nat} (hi : i < 8) :
    (bytesOfWord w)[i]? = some (w.extractLsb' (8 * i) 8) := by
  simp [bytesOfWord, hi]

theorem wordOfBytes_cons (b : Byte) (bs : List Byte) :
    wordOfBytes (b :: bs) = (wordOfBytes bs <<< 8) ||| b.setWidth 64 := rfl

/-- Bit `i` of the word that bytes make is bit `i % 8` of byte `i / 8`. -/
theorem getLsbD_wordOfBytes (bs : List Byte) {i : Nat} (hi : i < 64) :
    (wordOfBytes bs).getLsbD i = (bs.getD (i / 8) 0).getLsbD (i % 8) := by
  induction bs generalizing i with
  | nil => simp [wordOfBytes]
  | cons b bs ih =>
    simp only [wordOfBytes_cons, BitVec.getLsbD_or, BitVec.getLsbD_shiftLeft, BitVec.getLsbD_setWidth, hi]
    by_cases hlow : i < 8
    · simp [hlow, Nat.div_eq_of_lt hlow, Nat.mod_eq_of_lt hlow]
    · have hdiv : i / 8 = (i - 8) / 8 + 1 := by omega
      have hmod : i % 8 = (i - 8) % 8 := by omega
      rw [hdiv, hmod, List.getD_cons_succ, ← ih (by omega)]
      simp [hlow, BitVec.getLsbD_of_ge b i (by omega)]

@[simp] theorem wordOfBytes_bytesOfWord (w : Word) : wordOfBytes (bytesOfWord w) = w := by
  refine BitVec.eq_of_getLsbD_eq fun i hi => ?_
  rw [getLsbD_wordOfBytes _ hi, List.getD_eq_getElem?_getD, getElem?_bytesOfWord w (by omega)]
  simp [Nat.mod_lt, Nat.div_add_mod]

theorem length_checkpointBytes (o : ByteOrder) (p : Pair) : (checkpointBytes o p).length = 16 := by
  simp [checkpointBytes]

@[simp] theorem checkpointPair_checkpointBytes (o : ByteOrder) (p : Pair) :
    checkpointPair o (checkpointBytes o p) = p := by
  have hlen : (inByteOrder o (bytesOfWord p.1)).length = 8 := by simp
  simp [checkpointPair, checkpointBytes, List.take_left' hlen, List.drop_left' hlen]

/-- Settles O54: bytes read back are the words they were made of, bit by bit, and LDSTATE stores them verbatim. -/
theorem checkpointBytesRestoreTheStateInEitherByteOrder :
    Obligations.CheckpointBytesRestoreTheStateInEitherByteOrder := by
  unfold Obligations.CheckpointBytesRestoreTheStateInEitherByteOrder
  refine ⟨fun w i hi => ⟨getElem?_bytesOfWord w hi, ?_⟩,
    fun o p => ⟨length_checkpointBytes o p, checkpointPair_checkpointBytes o p⟩, fun s hs hv => ?_⟩
  · have hmirror : 8 - 1 - i = 7 - i := by omega
    rw [inByteOrder, List.getElem?_reverse (by simpa using hi), length_bytesOfWord, hmirror,
      getElem?_bytesOfWord w (by omega)]
  · refine ⟨_, s.s0, s.s1, exec_rdstate_of_valid hv, rfl, fun u => ?_⟩
    rw [hostCheckpoint, checkpointPair_checkpointBytes]
    exact ⟨_, exec_ldstate_of_ne_zero (hs hv) u, rfl, rfl, rfl⟩

end Sys2Proof.Machine

/-! ## The encoding: streams of commands and the assembler (30_encoding.md R60 to R70)

A command word is legal exactly when it is the command word of an opcode (`legalCommandWord_iff`), and an opcode with as
many operand words as it wants makes a command whose encoding they are (`encode_command`).  The decoder is read off from
these two. -/

namespace Sys2Proof.Machine

/-! ### Command words -/

theorem opcodeOfWord_eq_some {w : Word} {op : Opcode} : opcodeOfWord w = some op ↔ w = op.commandWord :=
  ⟨eq_commandWord_of_opcodeOfWord, fun h => h ▸ opcodeOfWord_commandWord op⟩

theorem legalCommandWord_eq_true {w : Word} : legalCommandWord w = true ↔ 1 ≤ w.toNat ∧ w.toNat ≤ 6 :=
  decide_eq_true_iff

theorem legalCommandWord_iff {w : Word} : legalCommandWord w = true ↔ ∃ op : Opcode, w = op.commandWord := by
  constructor
  · intro h
    obtain ⟨hlo, hhi⟩ := legalCommandWord_eq_true.mp h
    obtain h | h | h | h | h | h :
        w.toNat = 1 ∨ w.toNat = 2 ∨ w.toNat = 3 ∨ w.toNat = 4 ∨ w.toNat = 5 ∨ w.toNat = 6 := by omega
    exacts [⟨.seed, BitVec.eq_of_toNat_eq h⟩, ⟨.next, BitVec.eq_of_toNat_eq h⟩, ⟨.jump, BitVec.eq_of_toNat_eq h⟩,
      ⟨.rdstate, BitVec.eq_of_toNat_eq h⟩, ⟨.ldstate, BitVec.eq_of_toNat_eq h⟩, ⟨.rdstatus, BitVec.eq_of_toNat_eq h⟩]
  · rintro ⟨op, rfl⟩
    exact legalCommandWord_commandWord op

/-- A word's number is that of its two fields. -/
theorem toNat_eq_fields (w : Word) : w.toNat = (rsvField w).toNat * 256 + (opcField w).toNat := by
  have h := congrArg BitVec.toNat (rsvField_append_opcField w)
  rw [BitVec.toNat_append, Nat.shiftLeft_eq, Nat.mul_comm, ← Nat.two_pow_add_eq_or_of_lt (opcField w).isLt] at h
  omega

/-! ### What the decoder answers -/

theorem decode_cons_eq_illegal {w : Word} {rest : List Word} :
    decode (w :: rest) = .illegal w rest ↔ legalCommandWord w = false := by
  constructor
  · intro h
    rw [← Bool.not_eq_true, legalCommandWord_iff]
    rintro ⟨op, rfl⟩
    obtain hlt | hge := lt_or_ge rest.length op.nops
    · simp [decode_cons_incomplete (opcodeOfWord_commandWord op) hlt] at h
    · simp [decode_cons_command (opcodeOfWord_commandWord op) hge] at h
  · exact fun h => decode_cons_illegal rest (opcodeOfWord_eq_none_of_not_legal h)

theorem decode_cons_eq_incomplete {w : Word} {ops : List Word} :
    decode (w :: ops) = .incomplete ↔ ∃ op : Opcode, w = op.commandWord ∧ ops.length < op.nops := by
  constructor
  · intro h
    cases hop : opcodeOfWord w with
    | none => simp [decode_cons_illegal ops hop] at h
    | some op =>
      refine ⟨op, opcodeOfWord_eq_some.mp hop, ?_⟩
      by_contra hge
      simp [decode_cons_command hop (not_lt.mp hge)] at h
  · rintro ⟨op, rfl, hlt⟩
    exact decode_cons_incomplete (opcodeOfWord_commandWord op) hlt

/-- The command an opcode makes of the operand words it wants is encoded as its command word and those words. -/
theorem encode_command {op : Opcode} {ops : List Word} (h : ops.length = op.nops) :
    encode (op.command ops) = op.commandWord :: ops := by
  cases op with
  | seed =>
    obtain ⟨x, rfl⟩ := List.length_eq_one_iff.mp h
    rfl
  | ldstate =>
    obtain ⟨a, b, rfl⟩ := List.length_eq_two.mp h
    rfl
  | next | jump | rdstate | rdstatus =>
    obtain rfl := List.eq_nil_of_length_eq_zero h
    rfl

theorem eq_encode_append_of_decode {ws rest : List Word} {i : Instr} (h : decode ws = .command i rest) :
    ws = encode i ++ rest := by
  cases ws with
  | nil => simp at h
  | cons w ops =>
    cases hop : opcodeOfWord w with
    | none => simp [decode_cons_illegal ops hop] at h
    | some op =>
      obtain hlt | hge := lt_or_ge ops.length op.nops
      · simp [decode_cons_incomplete hop hlt] at h
      · rw [decode_cons_command hop hge] at h
        obtain ⟨rfl, rfl⟩ := Decoded.command.inj h
        rw [encode_command (List.length_take_of_le hge), List.cons_append, List.take_append_drop,
          opcodeOfWord_eq_some.mp hop]

theorem instr_wellFormed (i : Instr) : i.wellFormed = true := by
  cases i <;> rfl

theorem decode_encode_append (i : Instr) (rest : List Word) : decode (encode i ++ rest) = .command i rest :=
  decode_words_append (c := .legal i) (instr_wellFormed i) rest

theorem decodeStream_of_decoded {ws rest : List Word} {c : Command} (h : decode ws = c.decoded rest) (fuel : Nat) :
    decodeStream (fuel + 1) ws = (c :: (decodeStream fuel rest).1, (decodeStream fuel rest).2) := by
  cases c with
  | legal i => simp only [decodeStream, h, Command.decoded]
  | illegal w => simp only [decodeStream, h, Command.decoded]

/-- Settles O2, by induction on the commands: the decoder takes off the words of the first. -/
theorem streamOfEncodedCommandsDecodesToThem : Obligations.StreamOfEncodedCommandsDecodesToThem := by
  unfold Obligations.StreamOfEncodedCommandsDecodesToThem
  intro cs tail hcs
  induction cs with
  | nil => rfl
  | cons c cs ih =>
    obtain ⟨hc, hcs⟩ := List.forall_mem_cons.mp hcs
    rw [List.flatMap_cons, List.append_assoc, List.length_cons,
      decodeStream_of_decoded (decode_words_append hc _), ih hcs]

/-- Settles O3: the decoder undoes the encoder, and reads a command from no other words. -/
theorem commandIsReadExactlyFromItsEncoding : Obligations.CommandIsReadExactlyFromItsEncoding := by
  unfold Obligations.CommandIsReadExactlyFromItsEncoding
  exact fun ws i rest => ⟨eq_encode_append_of_decode, fun h => h ▸ decode_encode_append i rest⟩

/-- Settles O4: an illegal word is one outside 1 to 6, and a step on it is ILLEGAL_COMMAND. -/
theorem illegalWordIsOneCommandAndFaults : Obligations.IllegalWordIsOneCommandAndFaults := by
  unfold Obligations.IllegalWordIsOneCommandAndFaults
  refine fun w rest => ⟨?_, fun s hr hp hrec hd => ?_⟩
  · have hw := toNat_eq_fields w
    have hopc := (opcField w).isLt
    rw [decode_cons_eq_illegal, ← Bool.not_eq_true, legalCommandWord_eq_true]
    bv_omega
  · exact step_of_decoded (c := .illegal w) hr hp (hrec ▸ hd)

/-- Settles O5: a word that is not illegal is a legal command word. -/
theorem legalCommandWordsAreOneToSix : Obligations.LegalCommandWordsAreOneToSix := by
  unfold Obligations.LegalCommandWordsAreOneToSix
  intro w rest
  rw [ne_eq, decode_cons_eq_illegal, Bool.not_eq_false, legalCommandWord_eq_true]

/-- Settles O6: only SEED and LDSTATE want operand words. -/
theorem decoderWaitsExactlyForMissingWords : Obligations.DecoderWaitsExactlyForMissingWords := by
  unfold Obligations.DecoderWaitsExactlyForMissingWords
  intro ws
  constructor
  · intro h
    cases ws with
    | nil => exact .inl rfl
    | cons w ops =>
      obtain ⟨op, rfl, hlt⟩ := decode_cons_eq_incomplete.mp h
      cases op with
      | seed => exact .inr (.inl ⟨ops, rfl, hlt⟩)
      | ldstate => exact .inr (.inr ⟨ops, rfl, hlt⟩)
      | next | jump | rdstate | rdstatus => exact absurd hlt (Nat.not_lt_zero _)
  · rintro (rfl | ⟨ops, rfl, hlt⟩ | ⟨ops, rfl, hlt⟩)
    · rfl
    · exact decode_cons_eq_incomplete.mpr ⟨.seed, rfl, hlt⟩
    · exact decode_cons_eq_incomplete.mpr ⟨.ldstate, rfl, hlt⟩

/-- Settles O1, by evaluation of the decoder on the words written out. -/
theorem wordsOfTheOpcodeMapDecodeAsWritten : Obligations.WordsOfTheOpcodeMapDecodeAsWritten := by
  unfold Obligations.WordsOfTheOpcodeMapDecodeAsWritten
  exact ⟨rfl, rfl, rfl, rfl, rfl, rfl, rfl, rfl, rfl, rfl, rfl, rfl⟩

/-- Settles O8: while words are missing a step is the host's turn. -/
theorem incompleteCommandIsHeldWithNoEffect : Obligations.IncompleteCommandIsHeldWithNoEffect := by
  unfold Obligations.IncompleteCommandIsHeldWithNoEffect
  intro s hp hd
  rw [step_of_incomplete hd]
  refine ⟨fun hh => ?_, fun w es hh => congrArg _ (hostTurn_of_send hh hp)⟩
  simp only [State.hostTurn, hh]

/-! ### Responses -/

/-- The response of a legal command: ERR, or OK with the opcode's number of result words. -/
theorem response_of_exec {i : Instr} {s t : State} (h : exec i s = .next t) :
    t.pending = some .err ∨ ∃ ws, t.pending = some (.ok ws) ∧ ws.length = resultCount i.opcode := by
  cases i with
  | seed x =>
    obtain rfl := execSeed_cases h
    exact .inr ⟨_, rfl, rfl⟩
  | next =>
    obtain ⟨-, rfl⟩ | ⟨-, rfl⟩ := execNext_cases h
    · exact .inr ⟨_, rfl, rfl⟩
    · exact .inl rfl
  | jump =>
    obtain ⟨-, rfl⟩ | ⟨-, rfl⟩ := execJump_cases h
    · exact .inr ⟨_, rfl, rfl⟩
    · exact .inl rfl
  | rdstate =>
    obtain ⟨-, rfl⟩ | ⟨-, rfl⟩ := execRdstate_cases h
    · exact .inr ⟨_, rfl, rfl⟩
    · exact .inl rfl
  | ldstate a b =>
    obtain ⟨-, rfl⟩ | ⟨-, -, rfl⟩ := execLdstate_cases h
    · exact .inr ⟨_, rfl, rfl⟩
    · exact .inl rfl
  | rdstatus =>
    obtain rfl := execRdstatus_cases h
    exact .inr ⟨_, rfl, rfl⟩

@[simp] theorem Response.rstat_ok (ws : List Word) : (Response.ok ws).rstat = 0 := rfl
@[simp] theorem Response.rstat_err : Response.err.rstat = 1 := rfl
@[simp] theorem Response.resultWords_ok (ws : List Word) : (Response.ok ws).resultWords = ws := rfl
@[simp] theorem Response.resultWords_err : Response.err.resultWords = [] := rfl

/-- Settles O38, by the two kinds of response. -/
theorem responsesCarryTheOpcodesResultWords : Obligations.ResponsesCarryTheOpcodesResultWords := by
  unfold Obligations.ResponsesCarryTheOpcodesResultWords
  refine ⟨fun i s => ?_, rfl, rfl, rfl, rfl, rfl, rfl⟩
  obtain ⟨t, ht⟩ := exec_total i s
  obtain hr | ⟨ws, hr, hlen⟩ := response_of_exec ht
  · exact ⟨t, _, ht, hr, by simp⟩
  · exact ⟨t, _, ht, hr, by simp [hlen]⟩

/-- A command leaves FAULT set exactly when it was set before or the command answers ERR. -/
theorem Command.fault_of_exec {c : Command} {s t : State} (h : c.exec s = .next t) :
    t.fault = true ↔ s.fault = true ∨ t.pending = some .err := by
  cases c with
  | illegal w =>
    obtain rfl := execIllegal_cases (w := w) h
    simp
  | legal i =>
    cases execEffect_of_exec h with
    | fault c => simp
    | load h => simp
    | advance ws h => simp
    | read ws => simp

theorem Command.complete_response (s : State) (c : Command) :
    ∃ r, (Command.complete s c).delivered = s.delivered ++ [r] ∧
      ((Command.complete s c).fault = true ↔ s.fault = true ∨ r = .err) := by
  obtain ⟨t, ht⟩ := c.exec_total s
  obtain ⟨r, hr⟩ := Command.pending_of_exec ht
  obtain ⟨-, hdel, -⟩ := commandsLeaveTheChannelsAlone c s t ht
  rw [complete_of_exec ht]
  exact ⟨r, by simp [hdel, hr], by simp [Command.fault_of_exec ht, hr]⟩

/-- Commands in a row deliver a response each, and leave FAULT set exactly when it was set or one of them is ERR. -/
theorem runCommands_responses (s : State) (cs : List Command) :
    ∃ rs : List Response, (runCommands s cs).delivered = s.delivered ++ rs ∧ rs.length = cs.length ∧
      ((runCommands s cs).fault = true ↔ s.fault = true ∨ .err ∈ rs) := by
  induction cs generalizing s with
  | nil => exact ⟨[], by simp [runCommands]⟩
  | cons c cs ih =>
    obtain ⟨r, hdel, hfault⟩ := Command.complete_response s c
    obtain ⟨rs, hdels, hlen, hfaults⟩ := ih (Command.complete s c)
    refine ⟨r :: rs, ?_, congrArg (· + 1) hlen, ?_⟩
    · rw [runCommands_cons, hdels, hdel, List.append_assoc, List.singleton_append]
    · rw [runCommands_cons, hfaults, hfault, List.mem_cons, eq_comm (a := r), or_assoc]

theorem noCommandFaulted_iff {s : State} : s.noCommandFaulted = true ↔ ¬ s.fault = true := by
  simp [State.noCommandFaulted]

/-- Settles O49: FAULT gathers the ERRs of the run. -/
theorem faultAtTheEndTellsWhetherACommandFaulted : Obligations.FaultAtTheEndTellsWhetherACommandFaulted := by
  unfold Obligations.FaultAtTheEndTellsWhetherACommandFaulted
  intro cs s hs
  obtain ⟨rs, hdel, hlen, hfault⟩ := runCommands_responses s cs
  refine ⟨rs, hdel, hlen, ?_⟩
  rw [noCommandFaulted_iff, hfault, or_iff_right (noCommandFaulted_iff.mp hs)]

/-! ### What a parsed line assembles to -/

theorem numberInRange_iff {n : Nat} : numberInRange n = true ↔ n < 2 ^ 64 :=
  decide_eq_true_iff

theorem assembleLine_of_wellFormed {l : AsmLine} (h : l.wellFormed = true) : assembleLine l = some (expandLine l) :=
  if_pos h

theorem assembleLine_of_not_wellFormed {l : AsmLine} (h : ¬ l.wellFormed = true) : assembleLine l = none :=
  if_neg h

theorem encode_seed (x : Word) : encode (.seed x) = [0x0000000000000001, x] :=
  congrArg (· :: [x]) (rfl : Opcode.seed.commandWord = 0x0000000000000001)

theorem encode_ldstate (a b : Word) : encode (.ldstate a b) = [0x0000000000000005, a, b] :=
  congrArg (· :: [a, b]) (rfl : Opcode.ldstate.commandWord = 0x0000000000000005)

theorem expandLine_seed (n : Nat) : expandLine (.seed n) = [0x0000000000000001, BitVec.ofNat 64 n] :=
  encode_seed _

theorem expandLine_ldstate (a b : Nat) :
    expandLine (.ldstate a b) = [0x0000000000000005, BitVec.ofNat 64 a, BitVec.ofNat 64 b] :=
  encode_ldstate _ _

theorem expandLine_skip (k : Nat) : expandLine (.skip k) = List.replicate k 0x0000000000000002 :=
  List.flatten_replicate_singleton

theorem expandLine_jumpn (k : Nat) : expandLine (.jumpn k) = List.replicate k 0x0000000000000003 :=
  List.flatten_replicate_singleton

/-- A line of one number that has to be in range is an assembler error out of it. -/
theorem assembleLine_of_out_of_range {l : AsmLine} {n : Nat} (hl : l.wellFormed = numberInRange n) (hn : 2 ^ 64 ≤ n) :
    assembleLine l = none :=
  assembleLine_of_not_wellFormed (by rw [hl, numberInRange_iff]; exact not_lt.mpr hn)

/-- Settles O52: a line whose numbers are in range gives its words, and any other is an error. -/
theorem assemblerEncodesLinesAndPseudoCommands : Obligations.AssemblerEncodesLinesAndPseudoCommands := by
  unfold Obligations.AssemblerEncodesLinesAndPseudoCommands
  refine ⟨fun n hn => ?_, rfl, rfl, rfl, fun a b ha hb => ?_, rfl, fun n hn => ?_, fun k hk => ?_, fun k hk => ?_, rfl,
    fun n hn => ?_, fun a b hab => ?_⟩
  · exact expandLine_seed n ▸ assembleLine_of_wellFormed (numberInRange_iff.mpr hn)
  · exact expandLine_ldstate a b ▸ assembleLine_of_wellFormed
      (Bool.and_eq_true_iff.mpr ⟨numberInRange_iff.mpr ha, numberInRange_iff.mpr hb⟩)
  · exact assembleLine_of_wellFormed (l := .word n) (numberInRange_iff.mpr hn)
  · exact expandLine_skip k ▸ assembleLine_of_wellFormed (numberInRange_iff.mpr hk)
  · exact expandLine_jumpn k ▸ assembleLine_of_wellFormed (numberInRange_iff.mpr hk)
  · exact ⟨assembleLine_of_out_of_range rfl hn, assembleLine_of_out_of_range rfl hn,
      assembleLine_of_out_of_range rfl hn, assembleLine_of_out_of_range rfl hn⟩
  · refine assembleLine_of_not_wellFormed fun h => ?_
    obtain ⟨ha, hb⟩ := Bool.and_eq_true_iff.mp h
    have ha := numberInRange_iff.mp ha
    have hb := numberInRange_iff.mp hb
    omega

/-! ### Reading numbers -/

theorem digitsValue_append (b : Nat) (l r : List Char) (n : Nat) :
    digitsValue b (l ++ r) n = (digitsValue b l n).bind (digitsValue b r) := by
  induction l generalizing n with
  | nil => rfl
  | cons c l ih =>
    simp only [List.cons_append, digitsValue]
    cases digitValue c with
    | none => rfl
    | some d =>
      dsimp only
      split
      · exact ih _
      · rfl

theorem digitValue_digitChar : ∀ d < 16, digitValue d.digitChar = some d := by decide

theorem digitsValue_digitChar {b d : Nat} (hd : d < b) (hb : b ≤ 16) (cs : List Char) (n : Nat) :
    digitsValue b (d.digitChar :: cs) n = digitsValue b cs (n * b + d) := by
  simp [digitsValue, digitValue_digitChar d (hd.trans_le hb), hd]

/-- The digits of a number, in any base up to 16, are read back as the number. -/
theorem digitsValue_toDigits {b : Nat} (hb : 1 < b) (hb' : b ≤ 16) (n : Nat) :
    digitsValue b (Nat.toDigits b n) 0 = some n := by
  induction n using Nat.strongRecOn with
  | ind n ih =>
    obtain hlt | hge := lt_or_ge n b
    · rw [Nat.toDigits_of_lt_base hlt, digitsValue_digitChar hlt hb', Nat.zero_mul, Nat.zero_add, digitsValue]
    · have hquot : n / b < n := Nat.div_lt_self (by omega) hb
      rw [Nat.toDigits_of_base_le hb hge, digitsValue_append, ih _ hquot, Option.bind_some,
        digitsValue_digitChar (Nat.mod_lt n (by omega)) hb', Nat.div_add_mod', digitsValue]

theorem exists_digitChar_of_mem_toDigits {b n : Nat} {c : Char} (hb : 1 < b) (hc : c ∈ Nat.toDigits b n) :
    ∃ d < b, c = d.digitChar := by
  induction n using Nat.strongRecOn with
  | ind n ih =>
    obtain hlt | hge := lt_or_ge n b
    · rw [Nat.toDigits_of_lt_base hlt, List.mem_singleton] at hc
      exact ⟨n, hlt, hc⟩
    · have hquot : n / b < n := Nat.div_lt_self (by omega) hb
      rw [Nat.toDigits_of_base_le hb hge, List.mem_append, List.mem_singleton] at hc
      exact hc.elim (ih _ hquot) fun h => ⟨n % b, Nat.mod_lt n (by omega), h⟩

/-- Digits with no `x` among them are not taken for hexadecimal. -/
theorem parseNumber_of_no_x {l : List Char} (hne : l ≠ []) (hx : 'x' ∉ l) : parseNumber l = digitsValue 10 l 0 := by
  unfold parseNumber
  split
  · contradiction
  · simp at hx
  · rfl

theorem parseNumber_hex {l : List Char} (hne : l ≠ []) : parseNumber ('0' :: 'x' :: l) = digitsValue 16 l 0 := by
  obtain ⟨c, cs, rfl⟩ := List.exists_cons_of_ne_nil hne
  rfl

/-- The two ways a number is written (R69). -/
def IsNumberText (n : Nat) (d : List Char) : Prop :=
  d = Nat.toDigits 10 n ∨ d = '0' :: 'x' :: Nat.toDigits 16 n

theorem IsNumberText.parseNumber_eq {n : Nat} {d : List Char} (h : IsNumberText n d) : parseNumber d = some n := by
  obtain rfl | rfl := h
  · have hx : 'x' ∉ Nat.toDigits 10 n := fun hx => by
      obtain ⟨d, -, hd⟩ := exists_digitChar_of_mem_toDigits (by decide) hx
      exact Nat.digitChar_ne 'x' rfl hd.symm
    rw [parseNumber_of_no_x Nat.toDigits_ne_nil hx, digitsValue_toDigits (by decide) (by decide)]
  · rw [parseNumber_hex Nat.toDigits_ne_nil, digitsValue_toDigits (by decide) (by decide)]

/-! ### Tokens: the mnemonic and the numbers of a line -/

/-- A character that is neither space nor one the assembler cuts a line at. -/
def isPlain (c : Char) : Bool :=
  !isBlankChar c && c != ';' && c != ','

/-- A piece of a line that is read whole. -/
def isToken (l : List Char) : Bool :=
  !l.isEmpty && l.all isPlain

theorem isToken_iff {l : List Char} : isToken l = true ↔ l ≠ [] ∧ ∀ c ∈ l, isPlain c = true := by
  simp [isToken]

theorem isPlain_iff {c : Char} : isPlain c = true ↔ isBlankChar c = false ∧ c ≠ ';' ∧ c ≠ ',' := by
  simp [isPlain, and_assoc]

theorem isToken_reverse (l : List Char) : isToken l.reverse = isToken l := by
  simp [isToken]

theorem not_mem_of_isToken {l : List Char} {c : Char} (h : isToken l = true) (hc : isPlain c = false) : c ∉ l :=
  fun hmem => by simp [(isToken_iff.mp h).2 c hmem] at hc

theorem isPlain_digitChar : ∀ d < 16, isPlain d.digitChar = true := by decide

theorem isPlain_of_mem_toDigits {b n : Nat} {c : Char} (hb : 1 < b) (hb' : b ≤ 16) (hc : c ∈ Nat.toDigits b n) :
    isPlain c = true := by
  obtain ⟨d, hd, rfl⟩ := exists_digitChar_of_mem_toDigits hb hc
  exact isPlain_digitChar d (hd.trans_le hb')

theorem IsNumberText.isToken {n : Nat} {d : List Char} (h : IsNumberText n d) : isToken d = true := by
  obtain rfl | rfl := h
  · exact isToken_iff.mpr ⟨Nat.toDigits_ne_nil, fun c hc => isPlain_of_mem_toDigits (by decide) (by decide) hc⟩
  · refine isToken_iff.mpr ⟨List.cons_ne_nil _ _, List.forall_mem_cons.mpr ⟨rfl, List.forall_mem_cons.mpr ⟨rfl, ?_⟩⟩⟩
    exact fun c hc => isPlain_of_mem_toDigits (by decide) (by decide) hc

/-- Only letters have a small letter other than themselves. -/
theorem isPlain_of_toLower {c : Char} (h : isPlain c.toLower = true) : isPlain c = true := by
  by_cases hup : c.isUpper = true
  · have hne (a : Char) (ha : a.isUpper = false) : c ≠ a := fun hca => by simp [hca, ha] at hup
    refine isPlain_iff.mpr ⟨?_, hne ';' rfl, hne ',' rfl⟩
    simp [isBlankChar, hne ' ' rfl, hne '\t' rfl, hne '\r' rfl]
  · rwa [Char.toLower_eq_of_not_isUpper hup] at h

theorem isToken_of_map_toLower {m : List Char} (h : isToken (m.map Char.toLower) = true) : isToken m = true := by
  obtain ⟨hne, hplain⟩ := isToken_iff.mp h
  exact isToken_iff.mpr ⟨fun hm => hne (by rw [hm, List.map_nil]),
    fun c hc => isPlain_of_toLower (hplain _ (List.mem_map_of_mem hc))⟩

/-! ### Space, comments and commas -/

theorem dropWhile_token_append {m : List Char} (hm : isToken m = true) (r : List Char) :
    (m ++ r).dropWhile isBlankChar = m ++ r := by
  obtain ⟨hne, hplain⟩ := isToken_iff.mp hm
  obtain ⟨c, cs, rfl⟩ := List.exists_cons_of_ne_nil hne
  obtain ⟨hc, -⟩ := isPlain_iff.mp (hplain c List.mem_cons_self)
  exact List.dropWhile_cons_of_neg (by simp [hc])

/-- Space before a token is dropped no further than the token. -/
theorem dropWhile_append_token (a : List Char) {d : List Char} (hd : isToken d = true) :
    (a ++ d).dropWhile isBlankChar = a.dropWhile isBlankChar ++ d := by
  have hself : d.dropWhile isBlankChar = d := by simpa using dropWhile_token_append hd []
  rw [List.dropWhile_append, hself]
  split
  · next h => rw [List.isEmpty_iff.mp h, List.nil_append]
  · rfl

theorem trimChars_append_token (a : List Char) {d : List Char} (hd : isToken d = true) :
    trimChars (a ++ d) = a.dropWhile isBlankChar ++ d := by
  have hrev : isToken d.reverse = true := (isToken_reverse d).trans hd
  rw [trimChars, dropWhile_append_token a hd, List.reverse_append, dropWhile_token_append hrev, ← List.reverse_append,
    List.reverse_reverse]

theorem trimChars_token {d : List Char} (hd : isToken d = true) : trimChars d = d :=
  trimChars_append_token [] hd

theorem trimChars_blank_token {d : List Char} (hd : isToken d = true) : trimChars (' ' :: d) = d :=
  trimChars_append_token [' '] hd

theorem stripComment_eq_self {l : List Char} (h : ';' ∉ l) : stripComment l = l :=
  List.takeWhile_eq_self_iff.mpr fun c hc => by simpa using ne_of_mem_of_not_mem hc h

theorem stripComment_append_comment (l comment : List Char) : stripComment (l ++ ';' :: comment) = stripComment l := by
  induction l with
  | nil => rfl
  | cons c l ih =>
    unfold stripComment at ih ⊢
    rw [List.cons_append, List.takeWhile_cons, List.takeWhile_cons, ih]

theorem parseLine_append_comment (l comment : List Char) : parseLine (l ++ ';' :: comment) = parseLine l := by
  unfold parseLine
  rw [stripComment_append_comment]

theorem splitAtChar_of_not_mem {sep : Char} {l : List Char} (h : sep ∉ l) : splitAtChar sep l = [l] := by
  induction l with
  | nil => rfl
  | cons c l ih =>
    obtain ⟨hc, hl⟩ := List.ne_and_not_mem_of_not_mem_cons h
    simp [splitAtChar, Ne.symm hc, ih hl]

theorem splitAtChar_append {sep : Char} {l : List Char} (h : sep ∉ l) (r : List Char) :
    splitAtChar sep (l ++ sep :: r) = l :: splitAtChar sep r := by
  induction l with
  | nil => simp [splitAtChar]
  | cons c l ih =>
    obtain ⟨hc, hl⟩ := List.ne_and_not_mem_of_not_mem_cons h
    simp [splitAtChar, Ne.symm hc, ih hl]

/-! ### Reading a line -/

theorem parseOperands_of_trimChars_ne_nil {l : List Char} (h : trimChars l ≠ []) :
    parseOperands l = (splitAtChar ',' l).mapM (fun p => parseNumber (trimChars p)) :=
  if_neg h

theorem comma_not_mem_operand {n : Nat} {d : List Char} (h : IsNumberText n d) : ',' ∉ ' ' :: d :=
  List.not_mem_cons_of_ne_of_not_mem (by decide) (not_mem_of_isToken h.isToken rfl)

theorem parseOperands_one {n : Nat} {d : List Char} (h : IsNumberText n d) : parseOperands (' ' :: d) = some [n] := by
  have htrim := trimChars_blank_token h.isToken
  have hne : trimChars (' ' :: d) ≠ [] := htrim.trans_ne (isToken_iff.mp h.isToken).1
  rw [parseOperands_of_trimChars_ne_nil hne, splitAtChar_of_not_mem (comma_not_mem_operand h)]
  simp [htrim, h.parseNumber_eq]

theorem parseOperands_two {a b : Nat} {c d : List Char} (hc : IsNumberText a c) (hd : IsNumberText b d) :
    parseOperands (' ' :: c ++ ',' :: ' ' :: d) = some [a, b] := by
  have hne : trimChars (' ' :: c ++ ',' :: ' ' :: d) ≠ [] := by
    have h := trimChars_append_token (' ' :: c ++ [',', ' ']) hd.isToken
    rw [List.append_assoc] at h
    exact h ▸ List.append_ne_nil_of_right_ne_nil _ (isToken_iff.mp hd.isToken).1
  rw [parseOperands_of_trimChars_ne_nil hne, splitAtChar_append (comma_not_mem_operand hc),
    splitAtChar_of_not_mem (comma_not_mem_operand hd)]
  simp [trimChars_blank_token hc.isToken, trimChars_blank_token hd.isToken, hc.parseNumber_eq, hd.parseNumber_eq]

/-- A line is its mnemonic, up to the first space, and its operands. -/
theorem parseLine_append {m r : List Char} (hm : isToken m = true) (hr : ∀ c ∈ r.head?, isBlankChar c = true)
    (hcomment : ';' ∉ r) (htrim : trimChars (m ++ r) = m ++ r) :
    parseLine (m ++ r) = (parseOperands r).bind (lineOf (m.map Char.toLower)) := by
  obtain ⟨hne, hplain⟩ := isToken_iff.mp hm
  have hstrip : stripComment (m ++ r) = m ++ r :=
    stripComment_eq_self (List.not_mem_append (not_mem_of_isToken hm rfl) hcomment)
  have hblank : ∀ c ∈ m, (!isBlankChar c) = true := fun c hc => by simp [isPlain_iff.mp (hplain c hc)]
  have htake : (m ++ r).takeWhile (fun c => !isBlankChar c) = m := by
    rw [List.takeWhile_append_of_pos hblank]
    cases r with
    | nil => simp
    | cons c r => simp [hr c rfl]
  have hdrop : (m ++ r).dropWhile (fun c => !isBlankChar c) = r := by
    rw [List.dropWhile_append_of_pos hblank]
    cases r with
    | nil => simp
    | cons c r => simp [hr c rfl]
  unfold parseLine
  rw [hstrip, htrim, if_neg (List.append_ne_nil_of_left_ne_nil hne r), htake, hdrop]
  cases parseOperands r <;> rfl

section

variable {m name c d : List Char} {a b n : Nat}

theorem parseLine_no_operand (hname : isToken name = true) (hm : m.map Char.toLower = name) :
    parseLine m = lineOf name [] := by
  subst hm
  have htok := isToken_of_map_toLower hname
  have h := parseLine_append (r := []) htok (by simp) (by simp) (by simpa using trimChars_token htok)
  simpa [parseOperands, trimChars] using h

theorem parseLine_operands {a r : List Char} (hname : isToken name = true) (hm : m.map Char.toLower = name)
    (hr : r = ' ' :: a ++ d) (ha : ';' ∉ a) (hd : isToken d = true) :
    parseLine (m ++ r) = (parseOperands r).bind (lineOf name) := by
  subst hm
  have htok := isToken_of_map_toLower hname
  refine parseLine_append htok (by simp [hr, isBlankChar]) ?_ ?_
  · simp [hr, ha, not_mem_of_isToken hd (c := ';') rfl]
  · rw [hr, ← List.append_assoc, trimChars_append_token _ hd, dropWhile_token_append htok]

theorem parseLine_one (hname : isToken name = true) (hm : m.map Char.toLower = name) (hd : IsNumberText n d) :
    parseLine (m ++ ' ' :: d) = lineOf name [n] := by
  rw [parseLine_operands (r := ' ' :: d) (a := []) hname hm rfl List.not_mem_nil hd.isToken, parseOperands_one hd,
    Option.bind_some]

theorem parseLine_two (hname : isToken name = true) (hm : m.map Char.toLower = name) (hc : IsNumberText a c)
    (hd : IsNumberText b d) : parseLine (m ++ ' ' :: c ++ ',' :: ' ' :: d) = lineOf name [a, b] := by
  have hsemi : ';' ∉ c ++ [',', ' '] := by simp [not_mem_of_isToken hc.isToken (c := ';') rfl]
  rw [List.append_assoc, parseLine_operands (a := c ++ [',', ' ']) hname hm (by simp) hsemi hd.isToken,
    parseOperands_two hc hd, Option.bind_some]

end

/-- Settles O53: the mnemonic and the numbers are tokens, so trimming and cutting give them back. -/
theorem assemblerTextIsReadAsItsLines : Obligations.AssemblerTextIsReadAsItsLines := by
  unfold Obligations.AssemblerTextIsReadAsItsLines
  refine ⟨fun n d hd => ⟨fun m hm => ?_, fun m hm => ?_, fun m hm => ?_, ?_⟩, fun a b c d hc hd m hm => ?_,
    fun m => ⟨fun hm => ?_, fun hm => ?_, fun hm => ?_, fun hm => ?_, fun hm => ?_⟩, parseLine_append_comment⟩
  · have hline : parseLine (m ++ ' ' :: d) = some (.seed n) := parseLine_one rfl hm hd
    exact ⟨hline, fun hn => by rw [hline, Option.bind_some, assembleLine_of_out_of_range rfl hn]⟩
  · exact parseLine_one rfl hm hd
  · exact parseLine_one rfl hm hd
  · exact parseLine_one (m := ['.', 'w', 'o', 'r', 'd']) rfl rfl hd
  · exact parseLine_two rfl hm hc hd
  · exact parseLine_no_operand rfl hm
  · exact parseLine_no_operand rfl hm
  · exact parseLine_no_operand rfl hm
  · exact parseLine_no_operand rfl hm
  · exact parseLine_no_operand rfl hm

end Sys2Proof.Machine

/-! ## The state mixer and SEED (40_state_mixer.md R82 to R89)

SM is its increment followed by five injective maps that fix 0, so it is injective and 0 at one word only. -/

namespace Sys2Proof.Machine

/-! ### The rounds of SM -/

theorem splitMixWith_eq (c : Config) (x : Word) :
    splitMixWith c x =
      xorShiftRight (xorShiftRight (xorShiftRight (x + smGamma) c.smSh1 * smMul1) c.smSh2 * smMul2) c.smSh3 := rfl

@[simp] theorem toNat_xorShiftRight (z : Word) (k : Nat) :
    (xorShiftRight z k).toNat = z.toNat ^^^ (z.toNat / 2 ^ k) := by
  simp [xorShiftRight, Nat.shiftRight_eq_div_pow]

@[simp] theorem xorShiftRight_zero (k : Nat) : xorShiftRight 0#64 k = 0#64 := by
  simp [xorShiftRight]

theorem xorShiftRight_xor (z w : Word) (k : Nat) :
    xorShiftRight (z ^^^ w) k = xorShiftRight z k ^^^ xorShiftRight w k := by
  rw [xorShiftRight, xorShiftRight, xorShiftRight, BitVec.ushiftRight_xor_distrib]
  ac_rfl

/-- A word equal to its own right shift is 0, the shift being a division by at least 2. -/
theorem eq_zero_of_xorShiftRight_eq_zero {z : Word} {k : Nat} (hk : 1 ≤ k) (h : xorShiftRight z k = 0#64) :
    z = 0#64 := by
  have hdiv : z.toNat = z.toNat / 2 ^ k := by
    rw [← Nat.xor_eq_zero_iff, ← toNat_xorShiftRight, h, BitVec.toNat_zero]
  refine BitVec.eq_of_toNat_eq (Nat.eq_zero_of_not_pos fun hpos => ?_)
  exact (Nat.div_lt_self hpos (Nat.one_lt_two_pow (Nat.one_le_iff_ne_zero.mp hk))).ne hdiv.symm

theorem xorShiftRight_injective {k : Nat} (hk : 1 ≤ k) : Function.Injective (xorShiftRight · k) := by
  intro z w h
  have hzero : xorShiftRight (z ^^^ w) k = 0#64 := by rwa [xorShiftRight_xor, BitVec.xor_eq_zero_iff]
  exact BitVec.xor_eq_zero_iff.mp (eq_zero_of_xorShiftRight_eq_zero hk hzero)

/-- Multiplication by a word that has an inverse modulo 2^64. -/
theorem mul_injective_of_mul_eq_one {m n : Word} (h : m * n = 1#64) : Function.Injective (· * m) :=
  Function.LeftInverse.injective (g := (· * n)) fun z => by simp [BitVec.mul_assoc, h]

theorem mul_smMul1_injective : Function.Injective (· * smMul1) :=
  mul_injective_of_mul_eq_one (n := 0x96de1b173f119089) (by decide)

theorem mul_smMul2_injective : Function.Injective (· * smMul2) :=
  mul_injective_of_mul_eq_one (n := 0x319642b2d24d8ec3) (by decide)

theorem splitMixWith_injective {c : Config} (h1 : 1 ≤ c.smSh1) (h2 : 1 ≤ c.smSh2) (h3 : 1 ≤ c.smSh3) :
    Function.Injective (splitMixWith c) := by
  intro x y h
  rw [splitMixWith_eq, splitMixWith_eq] at h
  have round2 := mul_smMul2_injective (xorShiftRight_injective h3 h)
  have round1 := mul_smMul1_injective (xorShiftRight_injective h2 round2)
  exact (BitVec.add_left_inj _).mp (xorShiftRight_injective h1 round1)

/-- The one word that the increment takes to 0; the rounds keep it 0, whatever the shifts. -/
theorem splitMixWith_eq_zero (c : Config) : splitMixWith c 0x61c8864680b583eb = 0#64 := by
  have hsum : (0x61c8864680b583eb : Word) + smGamma = 0#64 := by decide
  rw [splitMixWith_eq, hsum]
  simp

theorem toNat_splitMixWith (c : Config) (x : Word) :
    (splitMixWith c x).toNat =
      let z0 := (x.toNat + 0x9e3779b97f4a7c15) % 2 ^ 64
      let z1 := ((z0 ^^^ (z0 / 2 ^ c.smSh1)) * 0xbf58476d1ce4e5b9) % 2 ^ 64
      let z2 := ((z1 ^^^ (z1 / 2 ^ c.smSh2)) * 0x94d049bb133111eb) % 2 ^ 64
      z2 ^^^ (z2 / 2 ^ c.smSh3) := by
  have hgamma : smGamma.toNat = 0x9e3779b97f4a7c15 := rfl
  have hmul1 : smMul1.toNat = 0xbf58476d1ce4e5b9 := rfl
  have hmul2 : smMul2.toNat = 0x94d049bb133111eb := rfl
  rw [splitMixWith_eq, toNat_xorShiftRight, BitVec.toNat_mul, toNat_xorShiftRight, BitVec.toNat_mul,
    toNat_xorShiftRight, BitVec.toNat_add, hgamma, hmul1, hmul2]

/-- Settles O30: SM(0) is not 0, so the pre-jump pair is not zero, and a jump keeps it so (`seedF_ne_zero`). -/
theorem seedNeverYieldsTheZeroState : Obligations.SeedNeverYieldsTheZeroState := by
  unfold Obligations.SeedNeverYieldsTheZeroState
  exact seedF_ne_zero

/-- Settles O28: the rounds as numbers, at the default shifts. -/
theorem splitMixComputesItsRoundsModuloTwoToThe64 : Obligations.SplitMixComputesItsRoundsModuloTwoToThe64 := by
  unfold Obligations.SplitMixComputesItsRoundsModuloTwoToThe64
  exact toNat_splitMixWith config

/-- Settles O29: SM is injective on a finite type, and takes 0x61c8864680b583eb to 0. -/
theorem splitMixIsABijectionWithOneZero : Obligations.SplitMixIsABijectionWithOneZero := by
  unfold Obligations.SplitMixIsABijectionWithOneZero
  refine ⟨fun c h1 _ h2 _ h3 _ => ?_, splitMixWith_eq_zero config, by decide⟩
  have hinj := splitMixWith_injective h1 h2 h3
  exact ⟨Finite.injective_iff_bijective.mp hinj, fun x => hinj.eq_iff' (splitMixWith_eq_zero c)⟩

/-! ### SEED -/

theorem exec_seed (x : Word) (s : State) :
    exec (.seed x) s = .next (((s.writeGen (seedF x)).setValid).respond (.ok [])) := rfl

/-- The worked example of R85. -/
theorem seedF_zero : seedF 0 = (0x46b079f2a5689271, 0x1ab0d6fd5640ba82) := by
  decide +kernel

/-- Settles O11: the words and the next state are SEED's definition, and the example is evaluated (`seedF_zero`). -/
theorem seedExpandsTheSeedAndSetsValid : Obligations.SeedExpandsTheSeedAndSetsValid := by
  unfold Obligations.SeedExpandsTheSeedAndSetsValid
  exact ⟨encode_seed, exec_seed, seedF_zero⟩

/-- Settles O31: SEED writes `seedF x` over either state. -/
theorem seedResultDependsOnTheSeedAlone : Obligations.SeedResultDependsOnTheSeedAlone := by
  unfold Obligations.SeedResultDependsOnTheSeedAlone
  exact fun x s s' => ⟨_, _, exec_seed x s, exec_seed x s', rfl, rfl, rfl, rfl⟩

/-! ### Equal seeds, equal outputs -/

/-- NEXT and JUMP answer OK from a valid state; the answer and the pair they leave depend on the pair before alone. -/
theorem Command.complete_next_or_jump {c : Command} (hc : c = .legal .next ∨ c = .legal .jump) (p : Pair) :
    ∃ (q : Pair) (r : Response), r ≠ .err ∧ ∀ s : State, s.valid = true → s.gen = p →
      (Command.complete s c).valid = true ∧ (Command.complete s c).gen = q ∧
        (Command.complete s c).delivered = s.delivered ++ [r] := by
  obtain rfl | rfl := hc
  · refine ⟨stepState p, .ok [stepOutput p], nofun, ?_⟩
    rintro s hv rfl
    rw [complete_of_exec (c := .legal .next) (exec_next_of_valid hv)]
    exact ⟨hv, rfl, rfl⟩
  · refine ⟨jumpF p, .ok [], nofun, ?_⟩
    rintro s hv rfl
    rw [complete_of_exec (c := .legal .jump) (exec_jump_of_valid hv)]
    exact ⟨hv, rfl, rfl⟩

theorem runCommands_next_or_jump {cs : List Command} (hcs : ∀ c ∈ cs, c = .legal .next ∨ c = .legal .jump) (p : Pair) :
    ∃ (q : Pair) (rs : List Response), .err ∉ rs ∧ ∀ s : State, s.valid = true → s.gen = p →
      (runCommands s cs).gen = q ∧ (runCommands s cs).delivered = s.delivered ++ rs := by
  induction cs generalizing p with
  | nil => exact ⟨p, [], List.not_mem_nil, fun s _ hg => ⟨hg, (List.append_nil _).symm⟩⟩
  | cons c cs ih =>
    obtain ⟨hc, hcs⟩ := List.forall_mem_cons.mp hcs
    obtain ⟨p', r, hr, hfirst⟩ := Command.complete_next_or_jump hc p
    obtain ⟨q, rs, hrs, hrest⟩ := ih hcs p'
    refine ⟨q, r :: rs, List.not_mem_cons_of_ne_of_not_mem hr.symm hrs, fun s hv hg => ?_⟩
    obtain ⟨hv', hg', hdel⟩ := hfirst s hv hg
    obtain ⟨hgen, hdels⟩ := hrest _ hv' hg'
    exact ⟨hgen, by rw [runCommands_cons, hdels, hdel, List.append_assoc, List.singleton_append]⟩

/-- Settles O50: SEED leaves the same valid pair in both, and what follows depends on that pair alone. -/
theorem equalSeedsGiveEqualOutputs : Obligations.EqualSeedsGiveEqualOutputs := by
  unfold Obligations.EqualSeedsGiveEqualOutputs
  intro x cs s s' hcs
  obtain ⟨q, rs, hrs, hrun⟩ := runCommands_next_or_jump hcs (seedF x)
  have hseeded (u : State) : (runCommands u (.legal (.seed x) :: cs)).gen = q ∧
      (runCommands u (.legal (.seed x) :: cs)).delivered = u.delivered ++ .ok [] :: rs := by
    obtain ⟨hgen, hdel⟩ := hrun (Command.complete u (.legal (.seed x))) rfl rfl
    refine ⟨hgen, ?_⟩
    rw [runCommands_cons, hdel, Command.complete_of_exec (c := .legal (.seed x)) (exec_seed x u)]
    simp
  obtain ⟨hgen, hdel⟩ := hseeded s
  obtain ⟨hgen', hdel'⟩ := hseeded s'
  exact ⟨.ok [] :: rs, hdel, hdel', by simp [hrs], hgen.trans hgen'.symm⟩

end Sys2Proof.Machine

/-! ## Rotation, STEP and NEXT (41_step.md R100 to R107) -/

namespace Sys2Proof.Machine

/-- Which bit of the word each bit of the rotated word is, as one index modulo 64. -/
theorem getLsbD_rotl64_eq_mod (x : Word) {k i : Nat} (hk : k ≤ 64) (hi : i < 64) :
    (rotl64 x k).getLsbD i = x.getLsbD ((i + (64 - k)) % 64) := by
  rw [getLsbD_rotl64 x k hi]
  split
  · congr 1; omega
  · congr 1; omega

/-- Settles O18: each bit by its index modulo 64, and a rotation by the rest of the word undoes the first. -/
theorem rotationMovesEachBitAndIsUndone : Obligations.RotationMovesEachBitAndIsUndone := by
  unfold Obligations.RotationMovesEachBitAndIsUndone
  refine ⟨rfl, rfl, fun x k _ hk => ⟨rfl, fun i hi => ?_, rotl64_rotl64 x (by omega)⟩⟩
  rw [getLsbD_rotl64_eq_mod x (by omega) (Nat.mod_lt _ (by decide))]
  congr 1
  omega

/-- Settles O19: each term of the recurrence, bit by bit. -/
theorem stepComputesTheRecurrenceBitByBit : Obligations.StepComputesTheRecurrenceBitByBit := by
  unfold Obligations.StepComputesTheRecurrenceBitByBit
  intro a b
  rw [stepF_eq]
  refine ⟨BitVec.toNat_add a b, fun i hi => ⟨?_, ?_⟩⟩
  · have hshift : decide (14 ≤ i) = (decide (i < 64) && !decide (i < 14)) := by grind
    rw [stepState_fst, BitVec.getLsbD_xor, BitVec.getLsbD_xor, BitVec.getLsbD_shiftLeft, BitVec.getLsbD_xor,
      BitVec.getLsbD_xor, getLsbD_rotl64_eq_mod a (by decide) hi, hshift]
  · rw [stepState_snd, getLsbD_rotl64_eq_mod _ (by decide) hi, BitVec.getLsbD_xor]

theorem toNat_pairVector (p : Pair) : (pairVector p).toNat = p.2.toNat * 2 ^ 64 + p.1.toNat := by
  rw [pairVector, BitVec.toNat_append, Nat.shiftLeft_eq, Nat.mul_comm,
    Nat.two_pow_add_eq_or_of_lt p.1.isLt]

theorem pairVector_pairXor (u v : Pair) : pairVector (pairXor u v) = pairVector u ^^^ pairVector v :=
  BitVec.xor_append.symm

/-- Settles O21: the step is linear (`stepState_pairXor`) and injective on a finite type; the output of (1, 1), the xor
of (1, 0) and (0, 1), is 2 and not 0. -/
theorem stepIsALinearBijection : Obligations.StepIsALinearBijection := by
  unfold Obligations.StepIsALinearBijection
  exact ⟨toNat_pairVector, pairVector_pairXor, stepState_pairXor,
    Finite.injective_iff_bijective.mp stepState_injective, stepState_zero, fun _ => stepState_ne_zero,
    fun h => absurd (h (1, 0) (0, 1)) (by decide)⟩

/-- Settles O12: both cases of NEXT, and the worked example of R102 evaluated. -/
theorem nextStepsAndAnswersTheSumOrFaultsUnseeded : Obligations.NextStepsAndAnswersTheSumOrFaultsUnseeded := by
  unfold Obligations.NextStepsAndAnswersTheSumOrFaultsUnseeded
  exact ⟨rfl, fun _ => exec_next_of_valid, fun _ => exec_next_of_not_valid, by decide⟩

/-- Settles O20: the carry out of the sum is dropped, equal words make `t` zero, and S1 = 0 makes it S0. -/
theorem stepCornerCases : Obligations.StepCornerCases := by
  unfold Obligations.StepCornerCases
  refine ⟨fun a b h => ?_, by decide, by decide, fun a => ?_, fun a => ?_, by decide⟩
  · have hsum : (stepF (a, b)).2.toNat = (a.toNat + b.toNat) % 2 ^ 64 := BitVec.toNat_add a b
    omega
  · rw [stepF_eq]
    ext1
    · simp [stepState_fst]
    · simp [stepState_snd]
  · rw [stepF_eq]
    ext1
    · simp [stepState_fst]
    · simp [stepState_snd]

end Sys2Proof.Machine

/-! ## The period of STEP (41_step.md R105)

For every prime factor `q` of 2^128 − 1, `x^((2^128 − 1) / q) − 1` has an inverse modulo the characteristic polynomial
of the step function, so that (2^128 − 1) / q steps fix the zero state only (`polyAct_ne_self`); and `x^(2^128 − 1)` is
1.  So 2^128 − 1 is the minimal period of every non-zero state (`minimalPeriod_stepState`), and one period visits them
all (`image_iterate_stepState`). -/

namespace Sys2Proof.Machine

/-! ### Products and powers of polynomials, on numbers -/

/-- `mulX` on numbers.  The operations are named, here and in `mulLoopNat`, because the kernel evaluates them faster
than the operator signs. -/
def mulXNat (c : Nat) : Nat :=
  Nat.xor (Nat.mod (Nat.mul 2 c) (Nat.pow 2 128)) (Nat.mul (Nat.div c (Nat.pow 2 127)) charPoly.toNat)

/-- `mulLoop` on numbers, over the `k` lowest bits of `b`. -/
def mulLoopNat : Nat → Nat → Nat → Nat → Nat
  | 0, _, acc, _ => acc
  | k + 1, b, acc, c => mulLoopNat k (Nat.div b 2) (Nat.xor acc (Nat.mul (Nat.mod b 2) c)) (mulXNat c)

/-- `b · c` modulo the characteristic polynomial; computed on numbers, which the kernel does faster than on words. -/
def mulMod (b c : BitVec 128) : BitVec 128 :=
  BitVec.ofNat 128 (mulLoopNat 128 b.toNat 0 c.toNat)

/-- `b ^ n` modulo the characteristic polynomial, by squarings, for an `n` of at most `k` bits. -/
def powBits (b : BitVec 128) : Nat → Nat → BitVec 128
  | 0, _ => 1#128
  | k + 1, n =>
    let s := powBits b k (n / 2)
    bif n.testBit 0 then mulMod b (mulMod s s) else mulMod s s

/-- `b ^ n` modulo the characteristic polynomial. -/
def powMod (b : BitVec 128) (n : Nat) : BitVec 128 :=
  powBits b (n.log2 + 1) n

theorem mulXNat_eq (c : Nat) : mulXNat c = 2 * c % 2 ^ 128 ^^^ c / 2 ^ 127 * charPoly.toNat := rfl

theorem mulLoopNat_succ (k b acc c : Nat) :
    mulLoopNat (k + 1) b acc c = mulLoopNat k (b / 2) (acc ^^^ b % 2 * c) (mulXNat c) := rfl

theorem toNat_mulX (b : BitVec 128) : (mulX b).toNat = mulXNat b.toNat := by
  have hcarry : (bif b.msb then charPoly else 0#128).toNat = b.toNat / 2 ^ 127 * charPoly.toNat := by
    have hlt := b.isLt
    cases hb : b.msb with
    | false =>
      have hdiv : b.toNat / 2 ^ 127 = 0 := by rw [BitVec.msb_eq_false_iff_two_mul_lt] at hb; omega
      rw [hdiv, Nat.zero_mul]; rfl
    | true =>
      have hdiv : b.toNat / 2 ^ 127 = 1 := by rw [BitVec.msb_eq_true_iff_two_mul_ge] at hb; omega
      rw [hdiv, Nat.one_mul]; rfl
  rw [mulX, BitVec.toNat_xor, hcarry, BitVec.toNat_shiftLeft, Nat.shiftLeft_eq, pow_one, Nat.mul_comm, mulXNat_eq]

theorem mulLoopNat_eq (k b : Nat) (acc c : BitVec 128) :
    mulLoopNat k b acc.toNat c.toNat = (mulLoop ((List.range k).map b.testBit) acc c).toNat := by
  induction k generalizing b acc c with
  | zero => rfl
  | succ k ih =>
    have hbits : (List.range (k + 1)).map b.testBit = b.testBit 0 :: (List.range k).map (b / 2).testBit := by
      rw [List.range_succ_eq_map, List.map_cons, List.map_map]
      exact congrArg _ (List.map_congr_left fun j _ => Nat.testBit_succ b j)
    have hacc : acc.toNat ^^^ b % 2 * c.toNat = (bif b.testBit 0 then acc ^^^ c else acc).toNat := by
      rw [Nat.testBit_zero]
      obtain h | h := Nat.mod_two_eq_zero_or_one b <;> simp [h]
    rw [mulLoopNat_succ, hacc, ← toNat_mulX, ih, hbits, mulLoop]

theorem mulMod_eq (b c : BitVec 128) : mulMod b c = mulLoop (polyBits b) 0#128 c := by
  rw [mulMod, ← BitVec.toNat_zero, mulLoopNat_eq, BitVec.ofNat_toNat, BitVec.setWidth_eq]
  rfl

/-! ### What they do to a state -/

theorem polyAct_mulMod (b c : BitVec 128) (p : Pair) : polyAct (mulMod b c) p = polyAct b (polyAct c p) := by
  rw [mulMod_eq, polyAct_mulLoop, polyAct_zero, polyAct_eq b]

@[simp] theorem polyAct_one (p : Pair) : polyAct 1#128 p = p := by
  have hbits : polyBits 1#128 = true :: List.replicate 127 false := by decide
  rw [polyAct, hbits, jumpLoop_true, jumpLoop_replicate_false, zero_pairXor]

theorem polyAct_powBits (b : BitVec 128) {k n : Nat} (h : n < 2 ^ k) (p : Pair) :
    polyAct (powBits b k n) p = (polyAct b)^[n] p := by
  induction k generalizing n p with
  | zero =>
    obtain rfl : n = 0 := by omega
    exact polyAct_one p
  | succ k ih =>
    have hsquare (p : Pair) :
        polyAct (mulMod (powBits b k (n / 2)) (powBits b k (n / 2))) p = (polyAct b)^[2 * (n / 2)] p := by
      rw [polyAct_mulMod, ih (by omega), ih (by omega), ← Function.iterate_add_apply, ← Nat.two_mul]
    rw [powBits, Nat.testBit_zero]
    obtain hn | hn := Nat.mod_two_eq_zero_or_one n
    · have hhalf : 2 * (n / 2) = n := by omega
      simp [hn, hsquare, hhalf]
    · have hhalf : 2 * (n / 2) + 1 = n := by omega
      simp [hn, polyAct_mulMod, hsquare, ← Function.iterate_succ_apply', hhalf]

theorem polyAct_powMod (b : BitVec 128) (n : Nat) (p : Pair) : polyAct (powMod b n) p = (polyAct b)^[n] p :=
  polyAct_powBits b Nat.lt_log2_self p

/-- A power of a power of the step. -/
theorem polyAct_powMod_of_iterate {b : BitVec 128} {e : Nat} (hb : ∀ p, polyAct b p = stepState^[e] p) (n : Nat)
    (p : Pair) : polyAct (powMod b n) p = stepState^[e * n] p := by
  rw [polyAct_powMod, funext hb, Function.iterate_mul]

/-- A polynomial whose difference from 1 has an inverse fixes the zero state only. -/
theorem polyAct_ne_self {b c : BitVec 128} (h : mulMod c (b ^^^ 1#128) = 1#128) {p : Pair} (hp : p ≠ (0, 0)) :
    polyAct b p ≠ p := by
  intro hfix
  refine hp ?_
  calc p = polyAct c (polyAct (b ^^^ 1#128) p) := by rw [← polyAct_mulMod, h, polyAct_one]
    _ = polyAct c (0, 0) := by rw [polyAct_xor, polyAct_one, hfix, pairXor_self]; rfl
    _ = (0, 0) := jumpLoop_zero _

/-! ### The factors of 2^128 − 1 -/

/-- The prime factors of 2^128 − 1, each with the inverse of `x^((2^128 − 1) / q) − 1` modulo the characteristic
polynomial; found outside Lean, and checked in `periodTable_checked`. -/
def periodTable : List (Nat × BitVec 128) :=
  [(67280421310721, 0x139bd4d8ba1f6134c128219c7d36e79d), (6700417, 0x14ca8334099b25f5a6585d516b1fd6f1),
    (274177, 0xe9e260cf9faf324aeb4d0d5da638cf50), (65537, 0xecb57a9ef6f5a6fff4387293b32f3b0c),
    (641, 0xa7e437605ed5e3ae3e409dba24fc1dcd), (257, 0x96f288cba5870497fd983bf5d14bdbeb),
    (17, 0x32c47704c6cdf7931acf2a818a19f62d), (5, 0x44746645e1e994f5f0fe77cc421dfaaa),
    (3, 0xff8cefb76846895353ca0f0fe69d9ac1)]

/-- The product of the factors in a table. -/
def factorProd (l : List (Nat × BitVec 128)) : Nat :=
  (l.map Prod.fst).prod

/-- For a power `b` of `x`: raised to all factors of the table but one it differs from 1 by what the table gives an
inverse of, and raised to all of them it is 1.  The factors are taken off one by one, so that the later ones go on from
a power already at hand. -/
def tableChecks : List (Nat × BitVec 128) → BitVec 128 → Bool
  | [], b => b == 1#128
  | (q, c) :: l, b => mulMod c (powMod b (factorProd l) ^^^ 1#128) == 1#128 && tableChecks l (powMod b q)

theorem periodTable_checked : tableChecks periodTable 2#128 = true := by
  decide +kernel

theorem tableChecks_cons {q : Nat} {c : BitVec 128} {l : List (Nat × BitVec 128)} {b : BitVec 128} :
    tableChecks ((q, c) :: l) b = true ↔
      mulMod c (powMod b (factorProd l) ^^^ 1#128) = 1#128 ∧ tableChecks l (powMod b q) = true := by
  simp [tableChecks]

theorem factorProd_cons (q : Nat) (c : BitVec 128) (l : List (Nat × BitVec 128)) :
    factorProd ((q, c) :: l) = q * factorProd l := by
  simp [factorProd]

theorem iterate_of_tableChecks {l : List (Nat × BitVec 128)} {b : BitVec 128} {e : Nat}
    (hb : ∀ p, polyAct b p = stepState^[e] p) (h : tableChecks l b = true) (p : Pair) :
    stepState^[e * factorProd l] p = p := by
  induction l generalizing b e with
  | nil =>
    obtain rfl : b = 1#128 := by simpa [tableChecks] using h
    simpa [factorProd] using (hb p).symm
  | cons row l ih =>
    obtain ⟨q, c⟩ := row
    obtain ⟨-, hrest⟩ := tableChecks_cons.mp h
    rw [factorProd_cons, ← Nat.mul_assoc]
    exact ih (polyAct_powMod_of_iterate hb q) hrest

theorem iterate_ne_self_of_tableChecks {l : List (Nat × BitVec 128)} {b : BitVec 128} {e : Nat}
    (hb : ∀ p, polyAct b p = stepState^[e] p) (h : tableChecks l b = true) {q : Nat} (hq : q ∈ l.map Prod.fst)
    (hq0 : 0 < q) {p : Pair} (hp : p ≠ (0, 0)) : stepState^[e * factorProd l / q] p ≠ p := by
  induction l generalizing b e with
  | nil => simp at hq
  | cons row l ih =>
    obtain ⟨r, c⟩ := row
    obtain ⟨hinv, hrest⟩ := tableChecks_cons.mp h
    rw [factorProd_cons, ← Nat.mul_assoc]
    obtain rfl | hq := List.mem_cons.mp hq
    · have hdiv : e * q * factorProd l / q = e * factorProd l := by
        rw [Nat.mul_right_comm, Nat.mul_div_cancel _ hq0]
      rw [hdiv, ← polyAct_powMod_of_iterate hb]
      exact polyAct_ne_self hinv hp
    · exact ih (polyAct_powMod_of_iterate hb r) hrest hq

/-- By Lucas's test: 3 has order p − 1 modulo p. -/
theorem prime_67280421310721 : Nat.Prime 67280421310721 := by
  refine lucas_primality _ 3 (by reduce_mod_char) fun q hq hd => ?_
  have hprimes : ∀ r ∈ [2, 2, 2, 2, 2, 2, 2, 2, 5, 47, 373, 2998279], Prime r := by
    simp only [List.forall_mem_cons, ← Nat.prime_iff]
    norm_num
  have hmem : q ∈ [2, 2, 2, 2, 2, 2, 2, 2, 5, 47, 373, 2998279] := mem_list_primes_of_dvd_prod hq.prime hprimes hd
  simp only [List.mem_cons, List.not_mem_nil, or_false, or_self_left] at hmem
  obtain rfl | rfl | rfl | rfl | rfl := hmem <;> reduce_mod_char <;> decide

theorem prime_of_mem_periodTable : ∀ q ∈ periodTable.map Prod.fst, q.Prime := by
  simp only [periodTable, List.map_cons, List.map_nil, List.forall_mem_cons]
  exact ⟨prime_67280421310721, by norm_num⟩

theorem factorProd_periodTable : factorProd periodTable = 2 ^ 128 - 1 := by decide

/-! ### The period -/

/-- A point has period `N` where it comes back after `N` steps and after `N / q` for no prime factor `q` of `N`. -/
theorem minimalPeriod_eq_of_prime_factors {α : Type} {f : α → α} {x : α} {N : Nat} (hx : f.IsPeriodicPt N x)
    (hprime : ∀ q, q.Prime → q ∣ N → ¬ f.IsPeriodicPt (N / q) x) : f.minimalPeriod x = N := by
  obtain ⟨a, ha⟩ := hx.minimalPeriod_dvd
  by_contra hne
  have ha1 : a ≠ 1 := by
    rintro rfl
    exact hne (by rw [ha, Nat.mul_one])
  obtain ⟨c, hc⟩ := a.minFac_dvd
  have hNc : N = f.minimalPeriod x * c * a.minFac := by rw [ha, Nat.mul_assoc, Nat.mul_comm c, ← hc]
  refine hprime a.minFac (Nat.minFac_prime ha1) (Dvd.intro_left _ hNc.symm) ?_
  rw [hNc, Nat.mul_div_cancel _ a.minFac_pos]
  exact (f.isPeriodicPt_minimalPeriod x).mul_const c

theorem minimalPeriod_stepState {p : Pair} (hp : p ≠ (0, 0)) : stepState.minimalPeriod p = 2 ^ 128 - 1 := by
  rw [← factorProd_periodTable, ← Nat.one_mul (factorProd periodTable)]
  refine minimalPeriod_eq_of_prime_factors (iterate_of_tableChecks polyAct_two periodTable_checked p) fun q hq hd => ?_
  have hmem : q ∈ periodTable.map Prod.fst :=
    mem_list_primes_of_dvd_prod hq.prime (fun r hr => (prime_of_mem_periodTable r hr).prime)
      (by rwa [Nat.one_mul] at hd)
  exact iterate_ne_self_of_tableChecks polyAct_two periodTable_checked hmem hq.pos hp

theorem card_pair : Nat.card Pair = 2 ^ 128 := by
  rw [Nat.card_prod]
  simp [Nat.card_eq_fintype_card, ← FinEnum.card_eq_fintypeCard]

theorem iterate_stepState_ne_zero {p : Pair} (hp : p ≠ (0, 0)) (n : Nat) : stepState^[n] p ≠ (0, 0) :=
  Function.Iterate.rec (· ≠ (0, 0)) hp (fun _ => stepState_ne_zero) n

/-- The states after the steps of one period are as many as the non-zero states, so they are all of them. -/
theorem image_iterate_stepState {p : Pair} (hp : p ≠ (0, 0)) :
    (stepState^[·] p) '' Set.Iio (2 ^ 128 - 1) = {(0, 0)}ᶜ := by
  have hinj : (Set.Iio (2 ^ 128 - 1)).InjOn (stepState^[·] p) :=
    minimalPeriod_stepState hp ▸ Function.iterate_injOn_Iio_minimalPeriod
  refine Set.eq_of_subset_of_ncard_le ?_ ?_
  · rintro _ ⟨n, -, rfl⟩
    exact iterate_stepState_ne_zero hp n
  · rw [hinj.ncard_image, Set.ncard_compl, Set.ncard_singleton, card_pair, Set.ncard_Iio_nat]

/-- Settles O22: the minimal period of a non-zero state is 2^128 − 1 (`minimalPeriod_stepState`), the number of the
non-zero states (`image_iterate_stepState`). -/
theorem periodIsTwoToThe128MinusOne : Obligations.PeriodIsTwoToThe128MinusOne := by
  unfold Obligations.PeriodIsTwoToThe128MinusOne
  intro p hp
  have hperiod := minimalPeriod_stepState hp
  refine ⟨?_, fun n hpos hlt => ?_, fun q hq => ?_⟩
  · rw [← hperiod]
    exact Function.iterate_minimalPeriod
  · exact Function.not_isPeriodicPt_of_pos_of_lt_minimalPeriod hpos.ne' (hperiod ▸ hlt)
  · obtain ⟨n, hn, rfl⟩ : q ∈ (stepState^[·] p) '' Set.Iio (2 ^ 128 - 1) := image_iterate_stepState hp ▸ hq
    refine ⟨n, ⟨hn, rfl⟩, fun m ⟨hm, heq⟩ => ?_⟩
    exact (Function.iterate_eq_iterate_iff_of_lt_minimalPeriod (hperiod ▸ hm) (hperiod ▸ hn)).mp heq

end Sys2Proof.Machine

/-! ## The jump function and JUMP (42_jump.md R120 to R127)

A jump is 2^64 steps (`jumpF_eq_iterate`) and the step has period 2^128 − 1 on every non-zero state
(`minimalPeriod_stepState`), so that 2^64 jumps are one step more than a period. -/

namespace Sys2Proof.Machine

/-! ### Jumps and steps -/

/-- Settles O25: the jump constants are those of 2^64 steps (`jumpF_eq_iterate`). -/
theorem jumpEqualsTwoToThe64Steps : Obligations.JumpEqualsTwoToThe64Steps := by
  unfold Obligations.JumpEqualsTwoToThe64Steps
  exact fun p => ⟨jumpF_eq_iterate p, congrArg stepOutput (jumpF_eq_iterate p)⟩

theorem jumpF_pairXor (u v : Pair) : jumpF (pairXor u v) = pairXor (jumpF u) (jumpF v) :=
  jumpLoop_pairXor jumpBits (0#64, 0#64) (0#64, 0#64) u v

theorem jumpF_stepState (p : Pair) : jumpF (stepState p) = stepState (jumpF p) := by
  rw [jumpF_eq_iterate, jumpF_eq_iterate, ← Function.iterate_succ_apply, Function.iterate_succ_apply']

theorem iterate_jumpF (k : Nat) (p : Pair) : jumpF^[k] p = stepState^[k * 2 ^ 64] p := by
  rw [funext jumpF_eq_iterate, ← Function.iterate_mul, Nat.mul_comm]

/-- One period of steps leaves every state as it was, zero too. -/
theorem iterate_stepState_period (p : Pair) : stepState^[2 ^ 128 - 1] p = p := by
  rw [← factorProd_periodTable, ← Nat.one_mul (factorProd periodTable)]
  exact iterate_of_tableChecks polyAct_two periodTable_checked p

/-- A whole period can be left off the end of a run of steps. -/
theorem iterate_stepState_add_period (n : Nat) (p : Pair) : stepState^[n + (2 ^ 128 - 1)] p = stepState^[n] p := by
  rw [Function.iterate_add_apply, iterate_stepState_period]

/-- Settles O26: the loop is linear, and the rest is said of steps: 2^64 · 2^64 steps are one period and one step. -/
theorem jumpIsALinearBijectionThatCommutesWithStep : Obligations.JumpIsALinearBijectionThatCommutesWithStep := by
  unfold Obligations.JumpIsALinearBijectionThatCommutesWithStep
  refine ⟨jumpF_pairXor, jumpF_zero, Finite.injective_iff_bijective.mp jumpF_injective, fun _ => jumpF_ne_zero,
    jumpF_stepState, iterate_jumpF, fun p => ?_⟩
  have hsteps : 2 ^ 64 * 2 ^ 64 = 1 + (2 ^ 128 - 1) := by decide
  rw [iterate_jumpF, hsteps, iterate_stepState_add_period, Function.iterate_one]

/-! ### Streams (R126) -/

/-- Steps fewer than a period apart give different states. -/
theorem iterate_stepState_ne {x : Pair} (hx : x ≠ (0, 0)) {m n : Nat} (hlt : m < n) (hn : n - m < 2 ^ 128 - 1) :
    stepState^[m] x ≠ stepState^[n] x := by
  intro heq
  have hfix : stepState^[n - m] x = x := Function.iterate_cancel stepState_injective heq.symm
  rw [← minimalPeriod_stepState hx] at hn
  exact Function.not_isPeriodicPt_of_pos_of_lt_minimalPeriod (by omega) hn hfix

/-- Settles O27: two states of the streams named are fewer than a period of steps apart (`iterate_stepState_ne`), the
last state of stream 2^64 − 1 is a period away from `x`, and the first of stream 2^64 one step more. -/
theorem streamsAreDisjointUpToTheLast : Obligations.StreamsAreDisjointUpToTheLast := by
  unfold Obligations.StreamsAreDisjointUpToTheLast
  intro x hx
  refine ⟨fun k => ?_, fun k l i j hkl hi hj hl => ?_, ?_, fun i => ?_⟩
  · rw [Nat.add_zero, iterate_jumpF]
  · exact iterate_stepState_ne hx (by omega) (by omega)
  · have hsteps : (2 ^ 64 - 1) * 2 ^ 64 + (2 ^ 64 - 1) = 2 ^ 128 - 1 := by decide
    rw [hsteps, iterate_stepState_period]
  · have hsteps : 2 ^ 64 * 2 ^ 64 + i = 0 * 2 ^ 64 + (i + 1) + (2 ^ 128 - 1) := by omega
    rw [hsteps, iterate_stepState_add_period]

/-! ### The jump bits and the loop (R120 to R122) -/

/-- `JC1 · 2^64 + JC0`, whose bit `j` is `JP[j]` (`jumpBits_eq_polyBits`). -/
def jumpPoly : BitVec 128 := 0xd86b048b86aa9922beac0467eba5facb

/-- The jump bits are the coefficients of the jump polynomial. -/
theorem jumpBits_eq_polyBits : jumpBits = polyBits jumpPoly := by
  decide

theorem getElem?_jumpBits {j : Nat} (hj : j < 128) : jumpBits[j]? = some (jumpPoly.getLsbD j) := by
  rw [jumpBits_eq_polyBits, polyBits, List.getElem?_map, List.getElem?_range hj, Option.map_some]

theorem jumpPoly_eq_append : jumpPoly = jc1 ++ jc0 := by
  decide

/-- Settles O23: position `j` is bit `j` of the jump polynomial, which is JC1 above JC0. -/
theorem jumpBitsAreTheConstantsLeastSignificantFirst : Obligations.JumpBitsAreTheConstantsLeastSignificantFirst := by
  unfold Obligations.JumpBitsAreTheConstantsLeastSignificantFirst
  refine ⟨rfl, fun j hj => ⟨?_, ?_⟩, fun j => getElem?_jumpBits⟩
  · rw [getElem?_jumpBits (by omega), jumpPoly_eq_append, BitVec.getLsbD_append, if_pos hj, jc0]
  · rw [getElem?_jumpBits (by omega), jumpPoly_eq_append, BitVec.getLsbD_append, if_neg (by omega),
      Nat.add_sub_cancel_left, jc1]

/-- The loop over bits given by position gathers the states after the steps before each set bit. -/
theorem jumpLoop_map_range' (f : Nat → Bool) (n start : Nat) (p : Pair) :
    jumpLoop ((List.range' start n).map f) (0#64, 0#64) (stepState^[start] p) =
      (((List.range' start n).filter f).map fun j => stepState^[j] p).foldr pairXor (0#64, 0#64) := by
  induction n generalizing start with
  | zero => rfl
  | succ n ih =>
    rw [List.range'_succ, List.map_cons, List.filter_cons]
    cases f start
    · rw [jumpLoop_false, ← Function.iterate_succ_apply' stepState, ih]
      rfl
    · rw [jumpLoop_true, ← Function.iterate_succ_apply' stepState, jumpLoop_acc, ih, zero_pairXor]
      rfl

/-- Settles O24: the loop over the bits of the jump polynomial (`jumpLoop_map_range'`). -/
theorem jumpXorsTheStatesAtTheSetBits : Obligations.JumpXorsTheStatesAtTheSetBits := by
  unfold Obligations.JumpXorsTheStatesAtTheSetBits
  intro p
  rw [jumpF_eq, jumpBits_eq_polyBits, polyBits, List.range_eq_range']
  exact jumpLoop_map_range' jumpPoly.getLsbD 128 0 p

/-! ### JUMP -/

/-- The worked example of R123. -/
theorem jumpF_one_two : jumpF (1, 2) = (0x814146b67b285f30, 0x7f6ff236623b4e25) := by
  decide +kernel

/-- Settles O13: both cases of JUMP, and the worked example evaluated (`jumpF_one_two`). -/
theorem jumpAdvancesOrFaultsUnseeded : Obligations.JumpAdvancesOrFaultsUnseeded := by
  unfold Obligations.JumpAdvancesOrFaultsUnseeded
  exact ⟨rfl, fun _ => exec_jump_of_valid, fun _ => exec_jump_of_not_valid, jumpF_one_two⟩

end Sys2Proof.Machine

/-! ## The state access commands (43_state_access.md R140 to R143) -/

namespace Sys2Proof.Machine

/-! ### Save and restore -/

/-- The words of a valid state are accepted by LDSTATE in any state, which then holds that pair. -/
theorem exec_ldstate_of_valid {s : State} (hs : s.NonZeroWhenValid) (hv : s.valid = true) (u : State) :
    exec (.ldstate s.s0 s.s1) u = .next (((u.writeGen s.gen).setValid).respond (.ok [])) :=
  exec_ldstate_of_ne_zero (hs hv) u

/-- Settles O39: RDSTATE answers the pair of the state, LDSTATE writes that pair (`exec_ldstate_of_valid`), and the
outputs after are a function of the pair. -/
theorem savedStateIsRestoredBitForBit : Obligations.SavedStateIsRestoredBitForBit := by
  unfold Obligations.SavedStateIsRestoredBitForBit
  intro s hs hv
  refine ⟨_, s.s0, s.s1, exec_rdstate_of_valid hv, rfl, fun u => ?_⟩
  exact ⟨_, exec_ldstate_of_valid hs hv u, rfl, rfl, rfl, rfl, fun _ => rfl⟩

/-! ### RDSTATE and LDSTATE -/

/-- Settles O14: both cases of RDSTATE; the answer leaves VALID and the pair, so a second RDSTATE answers it again; the
example is the pair SEED 0 writes (`seedF_zero`). -/
theorem rdstateAnswersTheStateOrFaultsUnseeded : Obligations.RdstateAnswersTheStateOrFaultsUnseeded := by
  unfold Obligations.RdstateAnswersTheStateOrFaultsUnseeded
  refine ⟨rfl, fun _ => exec_rdstate_of_valid, fun _ => exec_rdstate_of_not_valid,
    fun s hv => ⟨_, exec_rdstate_of_valid hv, exec_rdstate_of_valid hv⟩, fun s => ?_⟩
  exact ⟨_, _, exec_seed 0 s, exec_rdstate_of_valid rfl,
    congrArg (fun p : Pair => some (Response.ok [p.1, p.2])) seedF_zero⟩

/-- Settles O15: both cases of LDSTATE, and RDSTATE of the pair it writes. -/
theorem ldstateStoresItsOperandsOrFaultsZeroState : Obligations.LdstateStoresItsOperandsOrFaultsZeroState := by
  unfold Obligations.LdstateStoresItsOperandsOrFaultsZeroState
  refine ⟨encode_ldstate, fun a b s hab => exec_ldstate_of_ne_zero ?_ s, exec_ldstate_zero, fun s => ?_⟩
  · rwa [ne_eq, Prod.mk.injEq]
  · exact ⟨_, _, exec_ldstate_of_ne_zero (by decide) s, exec_rdstate_of_valid rfl, rfl⟩

/-! ### RDSTATUS -/

theorem exec_rdstatus (s : State) : exec .rdstatus s = .next (s.respond (.ok [statusWord s])) := rfl

/-- Settles O16: RDSTATUS answers the STATUS word of R29 in every state; the examples evaluate it after a reset, a SEED
and a faulting NEXT. -/
theorem rdstatusAnswersTheStatusWord : Obligations.RdstatusAnswersTheStatusWord := by
  unfold Obligations.RdstatusAnswersTheStatusWord
  refine ⟨rfl, exec_rdstatus, ?_, ?_, ?_⟩
  · exact ⟨_, exec_rdstatus _, rfl⟩
  · exact ⟨_, _, exec_seed 0 _, exec_rdstatus _, rfl⟩
  · exact ⟨_, _, exec_next_of_not_valid rfl, exec_rdstatus _, rfl⟩

end Sys2Proof.Machine

/-! ## Faults and instances (60_exceptions.md R160 to R176)

The table of R161 is `FaultCause`: a command that has a cause raises its fault (`FaultCause.exec_eq`), and one that
answers ERR has a cause (`exists_faultCause_of_err`). -/

namespace Sys2Proof.Machine

/-! ### The causes of faults (R161 to R164) -/

/-- The rows of the fault table (R162 to R164): the commands that fault in a state, each with its code. -/
inductive FaultCause (s : State) : Command → FaultCode → Prop where
  | illegal (w : Word) : FaultCause s (.illegal w) .illegalCommand
  | next (hv : s.valid = false) : FaultCause s (.legal .next) .unseeded
  | jump (hv : s.valid = false) : FaultCause s (.legal .jump) .unseeded
  | rdstate (hv : s.valid = false) : FaultCause s (.legal .rdstate) .unseeded
  | ldstate : FaultCause s (.legal (.ldstate 0 0)) .zeroState

theorem FaultCause.exec_eq {s : State} {c : Command} {f : FaultCode} (h : FaultCause s c f) :
    c.exec s = .next (raiseFault f s) := by
  cases h with
  | illegal w => rfl
  | next hv => exact exec_next_of_not_valid hv
  | jump hv => exact exec_jump_of_not_valid hv
  | rdstate hv => exact exec_rdstate_of_not_valid hv
  | ldstate => exact exec_ldstate_zero s

theorem FaultCause.eq_raiseFault {s t : State} {c : Command} {f : FaultCode} (h : FaultCause s c f)
    (ht : c.exec s = .next t) : t = raiseFault f s :=
  Host.Outcome.next.inj (ht.symm.trans h.exec_eq)

/-- The first fault records the code of its cause. -/
theorem FaultCause.fcode_eq {s t : State} {c : Command} {f : FaultCode} (h : FaultCause s c f)
    (ht : c.exec s = .next t) (hs : s.fault = false) : t.fcode = f.code := by
  simp [h.eq_raiseFault ht, hs]

theorem exists_faultCause_of_err {s t : State} {c : Command} (ht : c.exec s = .next t)
    (herr : t.pending = some .err) : ∃ f, FaultCause s c f := by
  cases c with
  | illegal w => exact ⟨_, .illegal w⟩
  | legal i =>
    cases i with
    | seed x =>
      obtain rfl := execSeed_cases ht
      simp at herr
    | next =>
      obtain ⟨-, rfl⟩ | ⟨hv, -⟩ := execNext_cases ht
      · simp at herr
      · exact ⟨_, .next hv⟩
    | jump =>
      obtain ⟨-, rfl⟩ | ⟨hv, -⟩ := execJump_cases ht
      · simp at herr
      · exact ⟨_, .jump hv⟩
    | rdstate =>
      obtain ⟨-, rfl⟩ | ⟨hv, -⟩ := execRdstate_cases ht
      · simp at herr
      · exact ⟨_, .rdstate hv⟩
    | ldstate a b =>
      obtain ⟨-, rfl⟩ | ⟨rfl, rfl, -⟩ := execLdstate_cases ht
      · simp at herr
      · exact ⟨_, .ldstate⟩
    | rdstatus =>
      obtain rfl := execRdstatus_cases ht
      simp at herr

/-- Settles O32: the causes of the statement are the rows of `FaultCause`, and each row's code is recorded first. -/
theorem commandsFaultExactlyForTheirCauses : Obligations.CommandsFaultExactlyForTheirCauses := by
  unfold Obligations.CommandsFaultExactlyForTheirCauses
  intro c s
  obtain ⟨t, ht⟩ := c.exec_total s
  refine ⟨t, ht, ⟨fun herr => ?_, fun hcause => ?_⟩, fun hs => ⟨?_, ?_, ?_⟩⟩
  · obtain ⟨f, hf⟩ := exists_faultCause_of_err ht herr
    cases hf with
    | illegal w => exact .inl ⟨w, rfl⟩
    | next hv => exact .inr (.inl ⟨hv, .inl rfl⟩)
    | jump hv => exact .inr (.inl ⟨hv, .inr (.inl rfl)⟩)
    | rdstate hv => exact .inr (.inl ⟨hv, .inr (.inr rfl)⟩)
    | ldstate => exact .inr (.inr rfl)
  · have hf : ∃ f, FaultCause s c f := by
      obtain ⟨w, rfl⟩ | ⟨hv, rfl | rfl | rfl⟩ | rfl := hcause
      exacts [⟨_, .illegal w⟩, ⟨_, .next hv⟩, ⟨_, .jump hv⟩, ⟨_, .rdstate hv⟩, ⟨_, .ldstate⟩]
    obtain ⟨f, hf⟩ := hf
    simp [hf.eq_raiseFault ht]
  · rintro ⟨w, rfl⟩
    exact (FaultCause.illegal w).fcode_eq ht hs
  · rintro hv (rfl | rfl | rfl)
    · exact (FaultCause.next hv).fcode_eq ht hs
    · exact (FaultCause.jump hv).fcode_eq ht hs
    · exact (FaultCause.rdstate hv).fcode_eq ht hs
  · rintro rfl
    exact FaultCause.ldstate.fcode_eq ht hs

/-- Settles O33: a command that answers ERR has a cause, so its state after is that of `raiseFault`. -/
theorem faultingCommandChangesOnlyTheFaultRecord : Obligations.FaultingCommandChangesOnlyTheFaultRecord := by
  unfold Obligations.FaultingCommandChangesOnlyTheFaultRecord
  intro c s t ht herr
  obtain ⟨f, hf⟩ := exists_faultCause_of_err ht herr
  rw [hf.eq_raiseFault ht]
  cases hf <;> rfl

/-! ### Every step, and a reset -/

/-- Settles O10: a reset, a wait, a legal command and an illegal word each have a next state (`step_total`). -/
theorem everyStepAnswersANextState : Obligations.EveryStepAnswersANextState := by
  unfold Obligations.EveryStepAnswersANextState
  exact step_total

theorem step_of_resetAsserted {s : State} (hr : s.resetAsserted = true) : step s = .next s.hostDone.assertReset := by
  rw [step, if_pos hr, hostTurn_of_resetAsserted hr]

@[simp] theorem statusWord_assertReset (s : State) : statusWord s.assertReset = 0 := by
  simp [statusWord, flagWord]

/-- Settles O42: either event is a reset, and a step on it is `assertReset` whatever the block was doing. -/
theorem resetAbandonsTheCommandInProgress : Obligations.ResetAbandonsTheCommandInProgress := by
  unfold Obligations.ResetAbandonsTheCommandInProgress
  intro s e es hh he
  have hr : s.resetAsserted = true := by
    obtain rfl | rfl := he <;> simp [State.resetAsserted, hh, HostEvent.isReset]
  exact ⟨_, step_of_resetAsserted hr, by simp [hh]⟩

/-! ### Several instances (R175) -/

theorem System.stepOne_of_none {y : System} {k : Nat} (hk : y.cores[k]? = none) : y.stepOne k = y := by
  simp [System.stepOne, hk]

theorem System.stepOne_of_step {y : System} {k : Nat} {s t : State} (hk : y.cores[k]? = some s)
    (ht : step s = .next t) : y.stepOne k = { cores := y.cores.set k t } := by
  simp [System.stepOne, hk, ht]

/-- A step of one block puts some state in its place, which changes nothing where there is no such block. -/
theorem System.exists_stepOne_eq_set (y : System) (k : Nat) : ∃ t, y.stepOne k = { cores := y.cores.set k t } := by
  cases hk : y.cores[k]? with
  | none => exact ⟨State.reset, by rw [stepOne_of_none hk, List.set_eq_of_length_le (List.getElem?_eq_none_iff.mp hk)]⟩
  | some s =>
    obtain ⟨t, ht⟩ := step_total s
    exact ⟨t, stepOne_of_step hk ht⟩

theorem System.getElem?_stepOne_of_ne (y : System) {j k : Nat} (hjk : j ≠ k) :
    (y.stepOne j).cores[k]? = y.cores[k]? := by
  obtain ⟨t, ht⟩ := y.exists_stepOne_eq_set j
  rw [ht, List.getElem?_set_ne hjk]

theorem System.length_stepOne (y : System) (k : Nat) : (y.stepOne k).cores.length = y.cores.length := by
  obtain ⟨t, ht⟩ := y.exists_stepOne_eq_set k
  rw [ht, List.length_set]

/-- What one block is after a step of any block depends on that block alone. -/
theorem System.getElem?_stepOne_congr {y z : System} {k : Nat} (h : y.cores[k]? = z.cores[k]?) (j : Nat) :
    (y.stepOne j).cores[k]? = (z.stepOne j).cores[k]? := by
  obtain rfl | hjk := eq_or_ne j k
  · cases hz : z.cores[j]? with
    | none => rw [stepOne_of_none (h.trans hz), stepOne_of_none hz, h]
    | some s =>
      obtain ⟨t, ht⟩ := step_total s
      rw [stepOne_of_step (h.trans hz) ht, stepOne_of_step hz ht, List.getElem?_set_self', List.getElem?_set_self', h]
  · rw [y.getElem?_stepOne_of_ne hjk, z.getElem?_stepOne_of_ne hjk, h]

theorem System.run_cons (y : System) (k : Nat) (ks : List Nat) : y.run (k :: ks) = (y.stepOne k).run ks := rfl

theorem System.getElem?_run_congr {y z : System} {k : Nat} (schedule : List Nat) (h : y.cores[k]? = z.cores[k]?) :
    (y.run schedule).cores[k]? = (z.run schedule).cores[k]? := by
  induction schedule generalizing y z with
  | nil => exact h
  | cons j js ih => exact ih (getElem?_stepOne_congr h j)

theorem System.getElem?_run_of_not_mem (y : System) {schedule : List Nat} {k : Nat} (hk : k ∉ schedule) :
    (y.run schedule).cores[k]? = y.cores[k]? := by
  induction schedule generalizing y with
  | nil => rfl
  | cons j js ih =>
    rw [List.mem_cons, not_or] at hk
    obtain ⟨hkj, hk⟩ := hk
    rw [run_cons, ih _ hk, y.getElem?_stepOne_of_ne (Ne.symm hkj)]

theorem System.length_run (y : System) (schedule : List Nat) : (y.run schedule).cores.length = y.cores.length := by
  induction schedule generalizing y with
  | nil => rfl
  | cons j js ih => rw [run_cons, ih, length_stepOne]

/-- Settles O51, by induction on the schedule: a step of one block reads and writes that block alone. -/
theorem instancesDoNotAffectEachOther : Obligations.InstancesDoNotAffectEachOther := by
  unfold Obligations.InstancesDoNotAffectEachOther
  exact ⟨fun _ _ schedule _ => System.getElem?_run_congr schedule, fun y _ _ => y.getElem?_run_of_not_mem,
    fun y schedule hy => (y.length_run schedule).trans hy⟩

end Sys2Proof.Machine

/-! ## What a reset forgets (70_reset_and_hazards.md R191)

A reset reads nothing of the block but its draw counter, and keeps nothing but the outside world's two lists. -/

namespace Sys2Proof.Machine

theorem State.assertReset_congr {s t : State} (hdelivered : t.delivered = s.delivered) (hhost : t.host = s.host)
    (hdraw : t.drawIndex = s.drawIndex) : t.assertReset = s.assertReset := by
  simp only [State.assertReset, hdelivered, hhost, hdraw]

/-- Settles O43: what a reset keeps or reads is what every command leaves alone (`commandsLeaveTheChannelsAlone`). -/
theorem undeliveredCommandLeavesNoTraceAfterReset : Obligations.UndeliveredCommandLeavesNoTraceAfterReset := by
  unfold Obligations.UndeliveredCommandLeavesNoTraceAfterReset
  intro c s t ht
  obtain ⟨-, hdelivered, hhost, hdraw⟩ := commandsLeaveTheChannelsAlone c s t ht
  exact State.assertReset_congr hdelivered hhost hdraw

end Sys2Proof.Machine
